-- ==== Sys2Proof/Word.lean ====
section
/-! DEFINITION. The word types of TXIENC: port and register words are 32 bits (spec/10_state.md R21, R37), the unit of
addressing of BUF is one byte (spec/20_memory.md R50). All values are unsigned (spec/00_scope.md R10). -/

namespace Sys2Proof

/-- A word of the command port, the response port or a register: 32 bits (R21, R37). -/
abbrev Word := BitVec 32

/-- A byte of BUF, of a pixel or of a section (R50). -/
abbrev Byte := BitVec 8

/-- A packed pixel: "a fixed-length byte sequence (1, 2, 3, or 4 bytes ...)" (R14). Two pixels are equal iff all bytes
match (R11), which is equality of lists. -/
abbrev Pixel := List Byte

end Sys2Proof
end

