-- ==== Sys2Proof/Syntax.lean ====
section
/-! DEFINITION. The commands of TXIENC: one constructor of `Instr` for each row of spec/opcode_table.json (spec/30_encoding.md
R76), with the operands of its format (R72, R73, R75). -/

namespace Sys2Proof

/-- The five texture formats (R3, R7). `CFG` and `PACK` name them by their FMT codes 0 to 4; the codes 5 to 7 name none. -/
inductive Fmt where
  | a8
  | bgr565
  | bgra8888
  | abgr6666
  | abgr8888
  deriving DecidableEq, Repr

/-- The twelve architectural registers, which RD reads by the indices 0x00 to 0x0B (spec/10_state.md R21). -/
inductive Reg where
  | status
  | cause
  | finfo
  | cap
  | pos
  | extent
  | enc
  | rleState
  | rleLast
  | rowBase
  | rowState
  | rowLast
  deriving DecidableEq, Repr

/-- The 22 commands (R76), each with its operands. -/
inductive Instr where
  /-- NOP, format F0 (spec/44_datapath.md R196). -/
  | nop
  /-- CUR_ALLOC, format FX: X is the capacity in bytes (spec/40_cursor.md R101). -/
  | curAlloc (x : Word)
  /-- CUR_SEEK, format FX: X is the new absolute offset (R102). -/
  | curSeek (x : Word)
  /-- CUR_TELL, format F0 (R103). -/
  | curTell
  /-- CUR_WRITE, format FW: N is the byte count, `data` the ceil(N/4) data words (R74, R105). -/
  | curWrite (n : Word) (data : List Word)
  /-- CUR_SLICE, format FS: FROM is present iff HF = 1 and TO iff HT = 1 (R73, R106). -/
  | curSlice (start : Option Word) (stop : Option Word)
  /-- PACK.A8, format FP with FMT = 0 (spec/42_packer.md R152). -/
  | packA8 (rgba : Word)
  /-- PACK.BGR565, format FP with FMT = 1 (R153). -/
  | packBgr565 (rgba : Word)
  /-- PACK.BGRA8888, format FP with FMT = 2 (R154). -/
  | packBgra8888 (rgba : Word)
  /-- PACK.ABGR6666, format FP with FMT = 3 (R155). -/
  | packAbgr6666 (rgba : Word)
  /-- PACK.ABGR8888, format FP with FMT = 4 (R156). -/
  | packAbgr8888 (rgba : Word)
  /-- RLE_INIT, format FB: BPM1 is the BPP minus 1 (spec/41_rle.md R122). -/
  | rleInit (bpm1 : BitVec 2)
  /-- RLE_PUSH, format FX: P carries a packed pixel (R123). -/
  | rlePush (p : Word)
  /-- RLE_FLUSH, format F0 (R128). -/
  | rleFlush
  /-- ROW_INIT, format FBX: BPM1 and the alignment base (spec/43_row.md R170). -/
  | rowInit (bpm1 : BitVec 2) (base : Word)
  /-- ROW_PUSH, format FX: P carries a packed pixel (R171). -/
  | rowPush (p : Word)
  /-- ROW_END, format F0 (R172). -/
  | rowEnd
  /-- CFG, format FC: texture format, RLE bit and payload start (spec/44_datapath.md R190). -/
  | cfg (fmt : Fmt) (rle : Bool) (base : Word)
  /-- PIX, format FX: an RGBA input pixel (R191). -/
  | pix (rgba : Word)
  /-- EOR, format F0 (R192). -/
  | eor
  /-- EOI, format F0 (R193). -/
  | eoi
  /-- RD, format FR: a register (R197). -/
  | rd (reg : Reg)
  deriving DecidableEq, Repr

end Sys2Proof
end

