-- ==== Sys2Proof/Config.lean ====
section
/-! DEFINITION. What an implementation of TXIENC fixes and the spec leaves OPEN: the parameters of spec/00_scope.md R9. Nothing
in Lean can evaluate them, so whatever is proved holds for every value the spec admits. -/

namespace Sys2Proof

/-- One less than CAP_MAX. R9 admits every CAP_MAX with 0 < CAP_MAX <= 2^32 - 1, which is this constant at every value of
its type (log entry 5). -/
opaque Config.capMaxLessOne : Fin 4294967295

/-- CAP_MAX, "the largest capacity CUR_ALLOC accepts, in bytes; 0 < CAP_MAX <= 2^32 - 1" (R9; OPEN). -/
def Config.capMax : Nat := Config.capMaxLessOne.val + 1

/-- The texture-format numbers of the header, before R222's one requirement is applied (log entry 6). -/
opaque Config.texCodeRaw : Fmt → Word

/-- TexCode, the header's number of a texture format (spec/45_host.md R222; OPEN). R222 requires only that bit 28 is clear. -/
def Config.texCode (f : Fmt) : Word := Config.texCodeRaw f &&& ~~~0x10000000#32

end Sys2Proof
end

