-- ==== Sys2Proof/WellFormed.lean ====
section
/-! DEFINITION. Which terms of `Instr` are commands the port can carry. Only CUR_WRITE has a relation between its operands:
N data bytes come in ceil(N/4) data words (spec/30_encoding.md R70, R72). -/

namespace Sys2Proof

/-- `ceil(n/4)`, the number of port words that carry `n` bytes (R70, R81). -/
def wordsFor (n : Nat) : Nat := (n + 3) / 4

/-- A command as the port can carry it: CUR_WRITE has exactly ceil(N/4) data words (R72), every other operand is free. -/
def Instr.wellFormed : Instr → Bool
  | .nop => true
  | .curAlloc _ => true
  | .curSeek _ => true
  | .curTell => true
  | .curWrite n data => data.length == wordsFor n.toNat
  | .curSlice _ _ => true
  | .packA8 _ => true
  | .packBgr565 _ => true
  | .packBgra8888 _ => true
  | .packAbgr6666 _ => true
  | .packAbgr8888 _ => true
  | .rleInit _ => true
  | .rlePush _ => true
  | .rleFlush => true
  | .rowInit _ _ => true
  | .rowPush _ => true
  | .rowEnd => true
  | .cfg _ _ _ => true
  | .pix _ => true
  | .eor => true
  | .eoi => true
  | .rd _ => true

end Sys2Proof
end

