-- ==== Sys2Proof/Decode.lean ====
section
/-! DEFINITION. The command decoder and the encoder, from the opcode map and formats of spec/30_encoding.md (R70 to R80). The
decoder reads the words of the command port; it takes the first command's words and leaves the rest. -/

namespace Sys2Proof

/-! ## Codes of the fields -/

/-- FMT code of a texture format (spec/00_scope.md R7, R73). -/
def Fmt.code : Fmt → BitVec 3
  | .a8 => 0
  | .bgr565 => 1
  | .bgra8888 => 2
  | .abgr6666 => 3
  | .abgr8888 => 4

/-- The texture format an FMT code names; 5, 6 and 7 name none (R73). -/
def Fmt.ofCode (c : BitVec 3) : Option Fmt :=
  match c.toNat with
  | 0 => some .a8
  | 1 => some .bgr565
  | 2 => some .bgra8888
  | 3 => some .abgr6666
  | 4 => some .abgr8888
  | _ => none

/-- Bytes per pixel of a texture format (R7). -/
def Fmt.bpp : Fmt → Nat
  | .a8 => 1
  | .bgr565 => 2
  | .bgra8888 => 4
  | .abgr6666 => 3
  | .abgr8888 => 4

/-- Index of a register (spec/10_state.md R21). -/
def Reg.index : Reg → BitVec 8
  | .status => 0x00
  | .cause => 0x01
  | .finfo => 0x02
  | .cap => 0x03
  | .pos => 0x04
  | .extent => 0x05
  | .enc => 0x06
  | .rleState => 0x07
  | .rleLast => 0x08
  | .rowBase => 0x09
  | .rowState => 0x0A
  | .rowLast => 0x0B

/-- The register an index names; 0x0C to 0xFF name none (R21, R73). -/
def Reg.ofIndex (c : BitVec 8) : Option Reg :=
  match c.toNat with
  | 0 => some .status
  | 1 => some .cause
  | 2 => some .finfo
  | 3 => some .cap
  | 4 => some .pos
  | 5 => some .extent
  | 6 => some .enc
  | 7 => some .rleState
  | 8 => some .rleLast
  | 9 => some .rowBase
  | 10 => some .rowState
  | 11 => some .rowLast
  | _ => none

/-! ## Opcodes and formats -/

/-- The 18 opcodes of R76 (PACK is one opcode for five commands). -/
inductive Opc where
  | nop | curAlloc | curSeek | curTell | curWrite | curSlice | pack | rleInit | rlePush | rleFlush | rowInit | rowPush
  | rowEnd | cfg | pix | eor | eoi | rd
  deriving DecidableEq, Repr

/-- OPC, the value of W[31:24] (R76). -/
def Opc.byte : Opc → BitVec 8
  | .nop => 0x00
  | .curAlloc => 0x01
  | .curSeek => 0x02
  | .curTell => 0x03
  | .curWrite => 0x04
  | .curSlice => 0x05
  | .pack => 0x10
  | .rleInit => 0x20
  | .rlePush => 0x21
  | .rleFlush => 0x22
  | .rowInit => 0x30
  | .rowPush => 0x31
  | .rowEnd => 0x32
  | .cfg => 0x40
  | .pix => 0x41
  | .eor => 0x42
  | .eoi => 0x43
  | .rd => 0x50

/-- The opcode of a value of W[31:24]; every value outside the map of R76 is undefined (R78(a)). -/
def Opc.ofByte (b : BitVec 8) : Option Opc :=
  match b.toNat with
  | 0x00 => some .nop
  | 0x01 => some .curAlloc
  | 0x02 => some .curSeek
  | 0x03 => some .curTell
  | 0x04 => some .curWrite
  | 0x05 => some .curSlice
  | 0x10 => some .pack
  | 0x20 => some .rleInit
  | 0x21 => some .rlePush
  | 0x22 => some .rleFlush
  | 0x30 => some .rowInit
  | 0x31 => some .rowPush
  | 0x32 => some .rowEnd
  | 0x40 => some .cfg
  | 0x41 => some .pix
  | 0x42 => some .eor
  | 0x43 => some .eoi
  | 0x50 => some .rd
  | _ => none

/-- The nine command formats (R72). -/
inductive Format where
  | f0 | fx | fw | fs | fp | fb | fbx | fc | fr
  deriving DecidableEq, Repr

/-- The format of an opcode (R76). -/
def Opc.format : Opc → Format
  | .nop => .f0
  | .curAlloc => .fx
  | .curSeek => .fx
  | .curTell => .f0
  | .curWrite => .fw
  | .curSlice => .fs
  | .pack => .fp
  | .rleInit => .fb
  | .rlePush => .fx
  | .rleFlush => .f0
  | .rowInit => .fbx
  | .rowPush => .fx
  | .rowEnd => .f0
  | .cfg => .fc
  | .pix => .fx
  | .eor => .f0
  | .eoi => .f0
  | .rd => .fr

/-- The reserved bits of a format: the bits of W[23:0] that R72 does not name. -/
def Format.reserved : Format → Word
  | .f0 => 0x00FFFFFF
  | .fx => 0x00FFFFFF
  | .fw => 0x00FFFFFF
  | .fs => 0x00FFFFFC
  | .fp => 0x001FFFFF
  | .fb => 0x00FCFFFF
  | .fbx => 0x00FCFFFF
  | .fc => 0x000FFFFF
  | .fr => 0x00FFFF00

/-! ## Fields of a command word (R71, R73) -/

/-- OPC = W[31:24]. -/
def opcField (w : Word) : BitVec 8 := w.extractLsb' 24 8
/-- FMT = W[23:21]. -/
def fmtField (w : Word) : BitVec 3 := w.extractLsb' 21 3
/-- RLE = W[20]. -/
def rleField (w : Word) : Bool := w.getLsbD 20
/-- BPM1 = W[17:16]. -/
def bpm1Field (w : Word) : BitVec 2 := w.extractLsb' 16 2
/-- HF = W[0]. -/
def hfField (w : Word) : Bool := w.getLsbD 0
/-- HT = W[1]. -/
def htField (w : Word) : Bool := w.getLsbD 1
/-- REG = W[7:0]. -/
def regField (w : Word) : BitVec 8 := w.extractLsb' 0 8

/-! ## Framing and decoding -/

/-- The number of operand and data words after a command word (R72, R80). For CUR_WRITE it depends on the first operand word
N; while N has not arrived, one more word is needed. A reserved bit that is set does not change the length. -/
def operandCount (o : Opc) (w : Word) (ops : List Word) : Nat :=
  match o.format with
  | .f0 => 0
  | .fx => 1
  | .fw =>
    match ops with
    | [] => 1
    | n :: _ => 1 + wordsFor n.toNat
  | .fs => (hfField w).toNat + (htField w).toNat
  | .fp => 1
  | .fb => 0
  | .fbx => 1
  | .fc => 1
  | .fr => 0

/-- Why a command word is no command (R78). -/
inductive DecodeError where
  /-- (a) W[31:24] is not in the map of R76. -/
  | undefinedOpcode
  /-- (b) a reserved bit of the opcode's format is 1. -/
  | reservedBit
  /-- (c) PACK or CFG with FMT 5, 6 or 7. -/
  | unsupportedFormat
  /-- (d) RD with REG 0x0C to 0xFF. -/
  | undefinedRegister
  deriving DecidableEq, Repr

/-- What the decoder reads from the front of a word sequence. -/
inductive Fetch where
  /-- The words so far are no whole command: more must arrive (R70). -/
  | incomplete
  /-- A command word `w` that R78 rejects, all of whose words have arrived, and the words after it. -/
  | rejected (e : DecodeError) (w : Word) (rest : List Word)
  /-- A whole command, and the words after it. -/
  | command (i : Instr) (rest : List Word)
  deriving DecidableEq, Repr

/-- The k-th operand word of a list. -/
def operand (k : Nat) (ops : List Word) : Word := ops.getD k 0

/-- The PACK command of a texture format (R76). -/
def packInstr (f : Fmt) (rgba : Word) : Instr :=
  match f with
  | .a8 => .packA8 rgba
  | .bgr565 => .packBgr565 rgba
  | .bgra8888 => .packBgra8888 rgba
  | .abgr6666 => .packAbgr6666 rgba
  | .abgr8888 => .packAbgr8888 rgba

/-- CUR_SLICE's operands: FROM if HF = 1, then TO if HT = 1 (R72). -/
def sliceInstr (w : Word) (ops : List Word) : Instr :=
  match hfField w, htField w with
  | false, false => .curSlice none none
  | true, false => .curSlice (some (operand 0 ops)) none
  | false, true => .curSlice none (some (operand 0 ops))
  | true, true => .curSlice (some (operand 0 ops)) (some (operand 1 ops))

/-- The command of a defined opcode with no reserved bit set, or the reason it is none (R73). -/
def buildInstr (o : Opc) (w : Word) (ops : List Word) : Except DecodeError Instr :=
  match o with
  | .nop => .ok .nop
  | .curAlloc => .ok (.curAlloc (operand 0 ops))
  | .curSeek => .ok (.curSeek (operand 0 ops))
  | .curTell => .ok .curTell
  | .curWrite => .ok (.curWrite (operand 0 ops) (ops.drop 1))
  | .curSlice => .ok (sliceInstr w ops)
  | .pack =>
    match Fmt.ofCode (fmtField w) with
    | some f => .ok (packInstr f (operand 0 ops))
    | none => .error .unsupportedFormat
  | .rleInit => .ok (.rleInit (bpm1Field w))
  | .rlePush => .ok (.rlePush (operand 0 ops))
  | .rleFlush => .ok .rleFlush
  | .rowInit => .ok (.rowInit (bpm1Field w) (operand 0 ops))
  | .rowPush => .ok (.rowPush (operand 0 ops))
  | .rowEnd => .ok .rowEnd
  | .cfg =>
    match Fmt.ofCode (fmtField w) with
    | some f => .ok (.cfg f (rleField w) (operand 0 ops))
    | none => .error .unsupportedFormat
  | .pix => .ok (.pix (operand 0 ops))
  | .eor => .ok .eor
  | .eoi => .ok .eoi
  | .rd =>
    match Reg.ofIndex (regField w) with
    | some r => .ok (.rd r)
    | none => .error .undefinedRegister

/-- R78's checks in the order of spec/60_exceptions.md R243: a reserved bit first, then the fields. -/
def decodeFields (o : Opc) (w : Word) (ops : List Word) : Except DecodeError Instr :=
  if w &&& o.format.reserved ≠ 0 then .error .reservedBit else buildInstr o w ops

/-- The decoder: the first command of a word sequence. An undefined opcode is rejected at the command word itself, every
other command only when all of its words have arrived (R70, R78). -/
def decode : List Word → Fetch
  | [] => .incomplete
  | w :: more =>
    match Opc.ofByte (opcField w) with
    | none => .rejected .undefinedOpcode w more
    | some o =>
      if more.length < operandCount o w more then .incomplete
      else
        match decodeFields o w (more.take (operandCount o w more)) with
        | .error e => .rejected e w (more.drop (operandCount o w more))
        | .ok i => .command i (more.drop (operandCount o w more))

/-! ## The encoder -/

/-- The opcode of a command (R76). -/
def Instr.opc : Instr → Opc
  | .nop => .nop
  | .curAlloc _ => .curAlloc
  | .curSeek _ => .curSeek
  | .curTell => .curTell
  | .curWrite _ _ => .curWrite
  | .curSlice _ _ => .curSlice
  | .packA8 _ => .pack
  | .packBgr565 _ => .pack
  | .packBgra8888 _ => .pack
  | .packAbgr6666 _ => .pack
  | .packAbgr8888 _ => .pack
  | .rleInit _ => .rleInit
  | .rlePush _ => .rlePush
  | .rleFlush => .rleFlush
  | .rowInit _ _ => .rowInit
  | .rowPush _ => .rowPush
  | .rowEnd => .rowEnd
  | .cfg _ _ _ => .cfg
  | .pix _ => .pix
  | .eor => .eor
  | .eoi => .eoi
  | .rd _ => .rd

/-- A bit at place k of a word. -/
def bitAt (b : Bool) (k : Nat) : Word := if b then 1#32 <<< k else 0

/-- FMT placed at W[23:21] (R72). -/
def fmtBits (f : Fmt) : Word := f.code.setWidth 32 <<< 21

/-- The free fields of a command word, W[23:0] (R77's last column). -/
def Instr.fields : Instr → Word
  | .nop => 0
  | .curAlloc _ => 0
  | .curSeek _ => 0
  | .curTell => 0
  | .curWrite _ _ => 0
  | .curSlice start stop => bitAt stop.isSome 1 ||| bitAt start.isSome 0
  | .packA8 _ => fmtBits .a8
  | .packBgr565 _ => fmtBits .bgr565
  | .packBgra8888 _ => fmtBits .bgra8888
  | .packAbgr6666 _ => fmtBits .abgr6666
  | .packAbgr8888 _ => fmtBits .abgr8888
  | .rleInit bpm1 => bpm1.setWidth 32 <<< 16
  | .rlePush _ => 0
  | .rleFlush => 0
  | .rowInit bpm1 _ => bpm1.setWidth 32 <<< 16
  | .rowPush _ => 0
  | .rowEnd => 0
  | .cfg fmt rle _ => fmtBits fmt ||| bitAt rle 20
  | .pix _ => 0
  | .eor => 0
  | .eoi => 0
  | .rd reg => reg.index.setWidth 32

/-- W, the command word (R72, R77). -/
def Instr.word (i : Instr) : Word := (i.opc.byte.setWidth 32 <<< 24) ||| i.fields

/-- The operand and data words after W, in order (R72). -/
def Instr.operands : Instr → List Word
  | .nop => []
  | .curAlloc x => [x]
  | .curSeek x => [x]
  | .curTell => []
  | .curWrite n data => n :: data
  | .curSlice start stop => start.toList ++ stop.toList
  | .packA8 rgba => [rgba]
  | .packBgr565 rgba => [rgba]
  | .packBgra8888 rgba => [rgba]
  | .packAbgr6666 rgba => [rgba]
  | .packAbgr8888 rgba => [rgba]
  | .rleInit _ => []
  | .rlePush p => [p]
  | .rleFlush => []
  | .rowInit _ base => [base]
  | .rowPush p => [p]
  | .rowEnd => []
  | .cfg _ _ base => [base]
  | .pix rgba => [rgba]
  | .eor => []
  | .eoi => []
  | .rd _ => []

/-- The words of a command as the host sends them (R70). -/
def encode (i : Instr) : List Word := i.word :: i.operands

/-! ## The opcode map as a table of words (R77) -/

/-- One row of R77: match, mask and the legal values of its free fields. -/
structure OpcodeRow where
  pattern : Word
  mask : Word
  legal : Word → Bool

/-- R77, row by row in its order: "A decoder can be written from this list alone." -/
def opcodeRows : List OpcodeRow :=
  [ ⟨0x00000000, 0xFFFFFFFF, fun _ => true⟩,
    ⟨0x01000000, 0xFFFFFFFF, fun _ => true⟩,
    ⟨0x02000000, 0xFFFFFFFF, fun _ => true⟩,
    ⟨0x03000000, 0xFFFFFFFF, fun _ => true⟩,
    ⟨0x04000000, 0xFFFFFFFF, fun _ => true⟩,
    ⟨0x05000000, 0xFFFFFFFC, fun _ => true⟩,
    ⟨0x10000000, 0xFFFFFFFF, fun _ => true⟩,
    ⟨0x10200000, 0xFFFFFFFF, fun _ => true⟩,
    ⟨0x10400000, 0xFFFFFFFF, fun _ => true⟩,
    ⟨0x10600000, 0xFFFFFFFF, fun _ => true⟩,
    ⟨0x10800000, 0xFFFFFFFF, fun _ => true⟩ ] ++
  [ ⟨0x20000000, 0xFFFCFFFF, fun _ => true⟩,
    ⟨0x21000000, 0xFFFFFFFF, fun _ => true⟩,
    ⟨0x22000000, 0xFFFFFFFF, fun _ => true⟩,
    ⟨0x30000000, 0xFFFCFFFF, fun _ => true⟩,
    ⟨0x31000000, 0xFFFFFFFF, fun _ => true⟩,
    ⟨0x32000000, 0xFFFFFFFF, fun _ => true⟩,
    ⟨0x40000000, 0xFF0FFFFF, fun w => decide ((fmtField w).toNat ≤ 4)⟩,
    ⟨0x41000000, 0xFFFFFFFF, fun _ => true⟩,
    ⟨0x42000000, 0xFFFFFFFF, fun _ => true⟩,
    ⟨0x43000000, 0xFFFFFFFF, fun _ => true⟩,
    ⟨0x50000000, 0xFFFFFF00, fun w => decide ((regField w).toNat ≤ 0x0B)⟩ ]

/-- A word fits a row: `(W & mask) == match` and its free fields hold legal values (R77). -/
def OpcodeRow.fits (r : OpcodeRow) (w : Word) : Bool := (w &&& r.mask == r.pattern) && r.legal w

/-! ## The table's numbering -/

/-- The words of an instruction whose bits are `w`: bit 0 is the least significant bit of the first word, later words count on
from it. Every bit above `nbits` is 0, and there are exactly as many words as the command has (none for no bits). -/
def tableWords (nbits w : Nat) : List Word :=
  let given := (List.range ((nbits + 31) / 32)).map fun k => BitVec.ofNat 32 (w % 2 ^ nbits / 2 ^ (32 * k))
  match given with
  | [] => []
  | h :: t =>
    match Opc.ofByte (opcField h) with
    | none => [h]
    | some o => h :: (t ++ List.replicate (operandCount o h t - t.length) 0).take (operandCount o h t)

/-- The instruction the decoder reads from the table's bits (a fixed name of the host's). -/
def decodeTableWord (nbits w : Nat) : Option Instr :=
  match decode (tableWords nbits w) with
  | .command i _ => some i
  | .rejected _ _ _ => none
  | .incomplete => none

end Sys2Proof
end

