-- ==== Sys2Proof/Machine/State.lean ====
section
/-! DEFINITION. The state of TXIENC (spec/10_state.md) as plain data, the reasons a step of the model can stop, and the state
right after reset (R40). Registers made of fields are stored field by field, once; the word that RD returns is computed in
Flags.lean, so that a reserved bit reads 0 (R21). -/

namespace Sys2Proof.Machine

/-- The fault causes of spec/60_exceptions.md R241, which CAUSE holds. The codes 7 to 255 are never produced, so they have no
constructor. -/
inductive Cause where
  /-- 0: no fault has occurred since reset. -/
  | none
  /-- 1: undefined opcode, reserved bit set, or RD of an index 0x0C to 0xFF. -/
  | illegalCommand
  /-- 2: PACK or CFG with FMT 5, 6 or 7. -/
  | unsupportedFormat
  /-- 3: a capacity, seek or append past the bound. -/
  | cursorBounds
  /-- 4: a slice outside [0, EXTENT] or with from > to. -/
  | sliceRange
  /-- 5: the cursor is not allocated or the unit is not configured. -/
  | notConfigured
  /-- 6: a row end with no pixel in the row. -/
  | rowEmpty
  deriving DecidableEq, Repr

/-- RLE_STATE.MODE, the source's `willCompress` (R30): 0 raw, 1 compress. -/
inductive RleMode where
  | raw
  | compress
  deriving DecidableEq, Repr

/-- What the host does next at the block's ports (R37, R270). Log entries 1 to 3. -/
inductive PortEvent where
  /-- One word arrives on the command port. -/
  | commandWord (w : Word)
  /-- The reset input, "taken between commands or in the middle of a command's words" (R270). -/
  | resetInput
  /-- The host takes the oldest undelivered word of the response port. -/
  | deliver
  deriving DecidableEq, Repr

/-- The contents of BUF: the non-zero bytes by offset, offsets rising; every other offset below CAP holds 0, as CUR_ALLOC left
it (R28, spec/40_cursor.md R101). -/
abbrev Memory := List Host.Cell

/-- Everything the spec gives the block (spec/10_state.md). -/
structure State where
  /-- STATUS.FAULT (R22). -/
  fault : Bool
  /-- STATUS.CA: the cursor buffer is allocated (R22). -/
  ca : Bool
  /-- STATUS.RLE_CFG: the RLE encoder has a BPP (R22). -/
  rleCfg : Bool
  /-- STATUS.ROW_CFG: the row unit has a BPP and base (R22). -/
  rowCfg : Bool
  /-- STATUS.ENC_CFG: the front end has a format and mode (R22). -/
  encCfg : Bool
  /-- CAUSE[7:0] (R23). -/
  cause : Cause
  /-- FINFO (R24). -/
  finfo : Word
  /-- CAP, the capacity in bytes (R25). -/
  cap : Word
  /-- POS, the write position (R26). -/
  pos : Word
  /-- EXTENT, the high-water mark of POS (R27). -/
  extent : Word
  /-- BUF (R28). -/
  buf : Memory
  /-- ENC.FMT (R29). -/
  encFmt : Fmt
  /-- ENC.RLEEN (R29). -/
  encRle : Bool
  /-- RLE_STATE.MODE (R30). -/
  rleMode : RleMode
  /-- RLE_STATE.PEND (R30). -/
  rlePend : Bool
  /-- RLE_STATE.CNT (R30). -/
  rleCnt : BitVec 7
  /-- RLE_STATE.BPM1 (R30). -/
  rleBpm1 : BitVec 2
  /-- RLE_LAST (R31). -/
  rleLast : Word
  /-- RAWBUF, the content of the hidden section buffer SEC (R32). -/
  rawBuf : List Pixel
  /-- ROW_BASE (R34). -/
  rowBase : Word
  /-- ROW_STATE.LASTV (R35). -/
  rowLastv : Bool
  /-- ROW_STATE.BPM1 (R35). -/
  rowBpm1 : BitVec 2
  /-- ROW_LAST (R36). -/
  rowLast : Word
  /-- The words of the part-received command (R37). -/
  part : List Word
  /-- Response words produced and not yet delivered, oldest first (R37, R270). -/
  rsp : List Word
  /-- The model's own field: what the host does next at the ports, first event first (log entry 1). -/
  input : List PortEvent
  deriving DecidableEq, Repr

/-- Why a step stops with a fault of the MODEL. The spec's own faults (spec/60_exceptions.md) are no stops: the block takes
them and goes on in the fault state, which is a next state. -/
inductive Fault where
  /-- Raised by CUR_SLICE when it would read BUF at an offset at or past CAP, a byte that does not exist (R28,
  spec/20_memory.md R50). It needs EXTENT > CAP, which no state reachable from reset has (R108). Safe. -/
  | noSuchByte
  deriving DecidableEq, Repr

/-- Why a step is refused. -/
inductive Refusal where
  /-- Raised by an arm of `exec` that has no meaning yet, with the row's mnemonic. No arm of this model is left so. Safe. -/
  | notModelled (mnemonic : String)
  deriving DecidableEq, Repr

/-- The fresh state: every register 0, RAWBUF empty, no part-received command, no pending response (R40, R270). BUF is
unspecified and unreachable (CAP = 0), so it lists nothing (log entry 7). Nothing is waiting at the ports (log entry 1). -/
def State.reset : State where
  fault := false
  ca := false
  rleCfg := false
  rowCfg := false
  encCfg := false
  cause := .none
  finfo := 0
  cap := 0
  pos := 0
  extent := 0
  buf := []
  encFmt := .a8
  encRle := false
  rleMode := .raw
  rlePend := false
  rleCnt := 0
  rleBpm1 := 0
  rleLast := 0
  rawBuf := []
  rowBase := 0
  rowLastv := false
  rowBpm1 := 0
  rowLast := 0
  part := []
  rsp := []
  input := []

end Sys2Proof.Machine
end

