-- ==== Sys2Proof/Machine/Operands.lean ====
section
/-! DEFINITION. Every operand form (spec/30_encoding.md R73 to R75) and the byte order they share: port words carry bytes
little-endian (spec/20_memory.md R53). -/

namespace Sys2Proof.Machine

/-- The four bytes a port word carries, `LE_4(v)` (R11, R53). -/
def leBytes (w : Word) : List Byte :=
  [w.extractLsb' 0 8, w.extractLsb' 8 8, w.extractLsb' 16 8, w.extractLsb' 24 8]

/-- `fromLE(s)`, the word whose little-endian bytes are s, for at most four bytes (R11). -/
def fromLE : List Byte → Word
  | [] => 0
  | b :: bs => b.setWidth 32 ||| (fromLE bs <<< 8)

/-- BPP of a unit from its BPM1 field: BPP = BPM1 + 1 (R73). -/
def bppOf (bpm1 : BitVec 2) : Nat := bpm1.toNat + 1

/-- BPM1 of a texture format, `BPP(FMT) - 1` (spec/44_datapath.md R190). -/
def bpm1Of (f : Fmt) : BitVec 2 := BitVec.ofNat 2 (f.bpp - 1)

/-- The packed pixel of an operand or register, `LE_bpp(P[8*bpp-1:0])`; the bits above are ignored (R13, R75). -/
def pixelOf (bpp : Nat) (p : Word) : Pixel := (leBytes p).take bpp

/-- A word with the bits at and above 8*bpp at 0, "in the low 8*BPP bits, with the upper bits 0" (spec/10_state.md R31, R36). -/
def lowBytes (bpp : Nat) (w : Word) : Word := fromLE (pixelOf bpp w)

/-- The N bytes that CUR_WRITE's data words carry: byte k is D[k div 4][8*(k mod 4)+7 : 8*(k mod 4)] for k < N; unused high
bytes of the last word are ignored (R74). -/
def writeData (n : Word) (data : List Word) : List Byte := (data.flatMap leBytes).take n.toNat

/-- The words that carry a byte sequence on the response port, little-endian, the unused high bytes of the last word 0 (R53,
R81). -/
def wordsOf : List Byte → List Word
  | b0 :: b1 :: b2 :: b3 :: bs => fromLE [b0, b1, b2, b3] :: wordsOf bs
  | [] => []
  | bs => [fromLE bs]

/-- R of an RGBA operand, RGBA[7:0] (R75). -/
def redOf (rgba : Word) : Byte := rgba.extractLsb' 0 8
/-- G of an RGBA operand, RGBA[15:8] (R75). -/
def greenOf (rgba : Word) : Byte := rgba.extractLsb' 8 8
/-- B of an RGBA operand, RGBA[23:16] (R75). -/
def blueOf (rgba : Word) : Byte := rgba.extractLsb' 16 8
/-- A of an RGBA operand, RGBA[31:24] (R75). -/
def alphaOf (rgba : Word) : Byte := rgba.extractLsb' 24 8

end Sys2Proof.Machine
end

