-- ==== Sys2Proof/Machine/Flags.lean ====
section
/-! DEFINITION. The register views: the 32-bit word of each register of spec/10_state.md R21, as RD returns it, and the status
sideband. The block has no condition codes (R39); its status bits are the fields of STATUS (R22). -/

namespace Sys2Proof.Machine

/-- The cause codes (spec/60_exceptions.md R241). -/
def Cause.code : Cause → BitVec 8
  | .none => 0
  | .illegalCommand => 1
  | .unsupportedFormat => 2
  | .cursorBounds => 3
  | .sliceRange => 4
  | .notConfigured => 5
  | .rowEmpty => 6

/-- MODE's bit: 0 raw, 1 compress (R30). -/
def RleMode.bit : RleMode → Bool
  | .raw => false
  | .compress => true

/-- STATUS (R22). -/
def State.statusWord (s : State) : Word :=
  bitAt s.fault 0 ||| bitAt s.ca 1 ||| bitAt s.rleCfg 2 ||| bitAt s.rowCfg 3 ||| bitAt s.encCfg 4

/-- CAUSE (R23). -/
def State.causeWord (s : State) : Word := s.cause.code.setWidth 32

/-- ENC (R29). -/
def State.encWord (s : State) : Word := s.encFmt.code.setWidth 32 ||| bitAt s.encRle 3

/-- RLE_STATE (R30). -/
def State.rleStateWord (s : State) : Word :=
  bitAt s.rleMode.bit 0 ||| bitAt s.rlePend 1 ||| (s.rleCnt.setWidth 32 <<< 2) ||| (s.rleBpm1.setWidth 32 <<< 9)

/-- ROW_STATE (R35). -/
def State.rowStateWord (s : State) : Word := bitAt s.rowLastv 0 ||| (s.rowBpm1.setWidth 32 <<< 1)

/-- RLE_LAST: the bits at and above 8*BPP read 0 (R31; spec/93_implementation_defined.md I12). -/
def State.rleLastWord (s : State) : Word := lowBytes (bppOf s.rleBpm1) s.rleLast

/-- ROW_LAST: the bits at and above 8*BPP read 0 (R36; spec/93_implementation_defined.md I12), also when ROW_INIT or CFG has made
BPP smaller and the register keeps its old value (spec/43_row.md R170; log entry 12). -/
def State.rowLastWord (s : State) : Word := lowBytes (bppOf s.rowBpm1) s.rowLast

/-- The value of a register, "read-only and reached only by RD" (R21, spec/20_memory.md R50). -/
def State.readReg (s : State) : Reg → Word
  | .status => s.statusWord
  | .cause => s.causeWord
  | .finfo => s.finfo
  | .cap => s.cap
  | .pos => s.pos
  | .extent => s.extent
  | .enc => s.encWord
  | .rleState => s.rleStateWord
  | .rleLast => s.rleLastWord
  | .rowBase => s.rowBase
  | .rowState => s.rowStateWord
  | .rowLast => s.rowLastWord

/-- fault_o, "a level output equal to STATUS.FAULT" (R37, spec/60_exceptions.md R248). -/
def State.faultOut (s : State) : Bool := s.fault

/-- cause_o = CAUSE[7:0] (R37). -/
def State.causeOut (s : State) : BitVec 8 := s.cause.code

/-- finfo_o = FINFO (R37). -/
def State.finfoOut (s : State) : Word := s.finfo

end Sys2Proof.Machine
end

