-- ==== Sys2Proof/Machine/Ops.lean ====
section
/-! DEFINITION. The shared operations over BUF, the cursor, the response port and the fault mechanism: bytes of BUF, MemRead and
MemWrite (spec/00_scope.md R12), Append (spec/40_cursor.md R104), RequireCA (R100), responses (spec/30_encoding.md R81) and
fault entry (spec/60_exceptions.md R244). -/

namespace Sys2Proof.Machine

/-! ## BUF as a canonical list -/

/-- What an offset that the list does not name reads as: the 0 that CUR_ALLOC wrote (R101). -/
def Memory.unlisted : Byte := 0

/-- The byte at an offset. -/
def Memory.read : Memory → Nat → Byte
  | [], _ => Memory.unlisted
  | (k, v) :: m, a => if k = a then v else Memory.read m a

/-- Put a cell in front, unless it says what an unlisted offset reads as. -/
def Memory.cons (a : Nat) (v : Byte) (m : Memory) : Memory := if v = Memory.unlisted then m else (a, v) :: m

/-- Write one byte and keep the offsets rising and the unlisted value unlisted. -/
def Memory.write : Memory → Nat → Byte → Memory
  | [], a, v => Memory.cons a v []
  | (k, x) :: m, a, v =>
    if a < k then Memory.cons a v ((k, x) :: m)
    else if a = k then Memory.cons a v m
    else (k, x) :: Memory.write m a v

/-- `MemWrite` of a byte sequence at an offset (R12). -/
def Memory.writeAll : Memory → Nat → List Byte → Memory
  | m, _, [] => m
  | m, a, b :: bs => Memory.writeAll (Memory.write m a b) (a + 1) bs

/-- The offsets rise strictly from `lo` on and no cell says what an unlisted offset reads as. -/
def Memory.risingFrom : Nat → Memory → Bool
  | _, [] => true
  | lo, (k, v) :: m => decide (lo ≤ k) && decide (v ≠ Memory.unlisted) && Memory.risingFrom (k + 1) m

/-- The canonical form: offsets strictly rising, no cell equal to what an unlisted offset reads as. -/
def Memory.wf (m : Memory) : Bool := Memory.risingFrom 0 m

/-- One byte of BUF, if it exists: "an array of CAP bytes, at offsets 0 to CAP-1" (R28). -/
def State.readByte (s : State) (a : Nat) : Option Byte :=
  if a < s.cap.toNat then some (Memory.read s.buf a) else none

/-- `MemRead(addr, n)`, the bytes BUF[addr..addr+n) (R12); none if one of them does not exist. -/
def State.memRead (s : State) : Nat → Nat → Option (List Byte)
  | _, 0 => some []
  | a, n + 1 =>
    match s.readByte a with
    | none => none
    | some b => (s.memRead (a + 1) n).map (b :: ·)

/-! ## Responses and faults -/

/-- What `raise Fault(cause, info)` carries (R12). -/
structure Trap where
  cause : Cause
  info : Word
  deriving DecidableEq, Repr

/-- H of an OK response: H[31:24] = W[31:24], KIND = 0x00, H[15:0] = 0 (R81). -/
def okHeader (w : Word) : Word := (opcField w).setWidth 32 <<< 24

/-- H of a FAULT response: KIND = 0x01 (R81). -/
def faultHeader (w : Word) : Word := ((opcField w).setWidth 32 <<< 24) ||| (0x01#32 <<< 16)

/-- `respond(...)`: put words on the response port, after those still undelivered (R12, R81). -/
def State.respond (s : State) (ws : List Word) : State := { s with rsp := s.rsp ++ ws }

/-- FAULT ENTRY (R244), in the state from before the command, so that every write the command made is discarded: set FAULT,
CAUSE and FINFO, and send the three words of a FAULT response. There is no return from a fault (R246). -/
def State.takeFault (s : State) (w : Word) (t : Trap) : State :=
  { s with
    fault := true
    cause := t.cause
    finfo := t.info
    rsp := s.rsp ++ [faultHeader w, t.cause.code.setWidth 32, t.info] }

/-- The end of a command that answers no result words beyond its header (R81): all of its writes and the OK response, or none
of them and the FAULT response (spec/20_memory.md R58). -/
def finish (w : Word) (s : State) (r : Except Trap State) : Host.Outcome State Fault Refusal :=
  match r with
  | .ok t => .next (t.respond [okHeader w])
  | .error tr => .next (s.takeFault w tr)

/-- The end of a command that answers ADV, "the increase of POS the command made, in bytes" (R81). -/
def finishAdv (w : Word) (s : State) (r : Except Trap State) : Host.Outcome State Fault Refusal :=
  match r with
  | .ok t => .next (t.respond [okHeader w, t.pos - s.pos])
  | .error tr => .next (s.takeFault w tr)

/-- A check that comes before everything else a command does: when it fails, the trap. -/
def require (holds : Bool) (t : Trap) (body : Except Trap State) : Except Trap State :=
  if holds then body else .error t

/-- The configuration checks: the unit's bit and `RequireCA()` raise NOT_CONFIGURED with FINFO = W (R100, R242). -/
def requireBit (bit : Bool) (w : Word) (body : Except Trap State) : Except Trap State :=
  require bit ⟨.notConfigured, w⟩ body

/-! ## The cursor -/

/-- FINFO of a bounds fault, `min(end, 0xFFFFFFFF)` (R242). -/
def saturate (n : Nat) : Word := BitVec.ofNat 32 (min n 0xFFFFFFFF)

/-- `POS <- p; EXTENT <- max(EXTENT, POS)`, as every write of POS does (R27). -/
def State.moveTo (s : State) (p : Nat) : State :=
  { s with pos := BitVec.ofNat 32 p, extent := BitVec.ofNat 32 (max s.extent.toNat p) }

/-- Write a byte sequence at POS, then go on to `stop` (R51: every write to BUF is at POS). -/
def State.writeAt (s : State) (bs : List Byte) (stop : Nat) : State :=
  { s with buf := Memory.writeAll s.buf s.pos.toNat bs }.moveTo stop

/-- `Append(s)`: write at POS and advance, or CURSOR_BOUNDS with nothing written; the sum is unbounded (R104). -/
def append (bs : List Byte) (s : State) : Except Trap State :=
  if s.pos.toNat + bs.length > s.cap.toNat then .error ⟨.cursorBounds, saturate (s.pos.toNat + bs.length)⟩
  else .ok (s.writeAt bs (s.pos.toNat + bs.length))

end Sys2Proof.Machine
end

