-- ==== Sys2Proof/Machine/Cursor.lean ====
section
/-! DEFINITION. The byte cursor commands (spec/40_cursor.md): CUR_ALLOC, CUR_SEEK, CUR_TELL, CUR_WRITE, CUR_SLICE. -/

namespace Sys2Proof.Machine

/-- CUR_ALLOC's writes (R101): a zeroed buffer of X bytes, POS and EXTENT at 0. -/
def State.allocate (s : State) (x : Word) : State :=
  { s with cap := x, buf := [], pos := 0, extent := 0, ca := true }

/-- CUR_ALLOC X (R101): X > CAP_MAX faults with FINFO = X. -/
def execCurAlloc (x : Word) (s : State) : Host.Outcome State Fault Refusal :=
  finish (Instr.curAlloc x).word s (require (decide (x.toNat ≤ Config.capMax)) ⟨.cursorBounds, x⟩ (.ok (s.allocate x)))

/-- CUR_SEEK X (R102): X > CAP faults with FINFO = X; X = CAP is legal. A seek writes no byte. -/
def execCurSeek (x : Word) (s : State) : Host.Outcome State Fault Refusal :=
  finish (Instr.curSeek x).word s
    (requireBit s.ca (Instr.curSeek x).word
      (require (decide (x.toNat ≤ s.cap.toNat)) ⟨.cursorBounds, x⟩ (.ok (s.moveTo x.toNat))))

/-- CUR_TELL (R103): answers POS. -/
def execCurTell (s : State) : Host.Outcome State Fault Refusal :=
  if s.ca then .next (s.respond [okHeader Instr.curTell.word, s.pos])
  else .next (s.takeFault Instr.curTell.word ⟨.notConfigured, Instr.curTell.word⟩)

/-- CUR_WRITE N, data (R105): appends the N bytes the data words carry. -/
def execCurWrite (n : Word) (data : List Word) (s : State) : Host.Outcome State Fault Refusal :=
  finish (Instr.curWrite n data).word s
    (requireBit s.ca (Instr.curWrite n data).word (append (writeData n data) s))

/-- The start of a slice: FROM if HF = 1, else 0 (R106). -/
def sliceStart (start : Option Word) : Word := start.getD 0

/-- The end of a slice: TO if HT = 1, else EXTENT (R106). -/
def sliceStop (stop : Option Word) (s : State) : Word := stop.getD s.extent

/-- CUR_SLICE's OK response: L, then the L bytes packed into words (R81, R106). A byte that does not exist stops the model
(log entry 9); it needs EXTENT > CAP. -/
def answerSlice (w : Word) (start stop : Word) (s : State) : Host.Outcome State Fault Refusal :=
  match s.memRead start.toNat (stop.toNat - start.toNat) with
  | none => .fault .noSuchByte
  | some bs => .next (s.respond (okHeader w :: BitVec.ofNat 32 (stop.toNat - start.toNat) :: wordsOf bs))

/-- CUR_SLICE [FROM], [TO] (R106): the checks in their order, then the bytes BUF[from..to). -/
def execCurSlice (start stop : Option Word) (s : State) : Host.Outcome State Fault Refusal :=
  if !s.ca then
    .next (s.takeFault (Instr.curSlice start stop).word ⟨.notConfigured, (Instr.curSlice start stop).word⟩)
  else if (sliceStop stop s).toNat > s.extent.toNat then
    .next (s.takeFault (Instr.curSlice start stop).word ⟨.sliceRange, sliceStop stop s⟩)
  else if (sliceStart start).toNat > (sliceStop stop s).toNat then
    .next (s.takeFault (Instr.curSlice start stop).word ⟨.sliceRange, sliceStart start⟩)
  else answerSlice (Instr.curSlice start stop).word (sliceStart start) (sliceStop stop s) s

end Sys2Proof.Machine
end

