-- ==== Sys2Proof/Machine/Packer.lean ====
section
/-! DEFINITION. The pixel packer (spec/42_packer.md): the rescale, the five variants and the PACK commands. -/

namespace Sys2Proof.Machine

/-- `scale(v, m) = (v * m + 127) div 255`, the rescale of a channel to a field of maximum m (R151). -/
def scale (v : Byte) (m : Nat) : Nat := (v.toNat * m + 127) / 255

/-- The low byte of a number: the packers' `& 0xFF` (R153, R155). -/
def lowByte (n : Nat) : Byte := BitVec.ofNat 8 n

/-- A8 keeps the red channel only (R152). -/
def packA8 (rgba : Word) : Pixel := [redOf rgba]

/-- BGR565: red and blue at 5 bits, green at 6, alpha discarded (R153). -/
def packBgr565 (rgba : Word) : Pixel :=
  let r5 := scale (redOf rgba) 31
  let g6 := scale (greenOf rgba) 63
  let b5 := scale (blueOf rgba) 31
  [lowByte ((g6 <<< 5) ||| b5), lowByte ((g6 >>> 3) ||| (r5 <<< 3))]

/-- BGRA8888: the channels as B, G, R, A (R154). -/
def packBgra8888 (rgba : Word) : Pixel := [blueOf rgba, greenOf rgba, redOf rgba, alphaOf rgba]

/-- ABGR6666: four channels at 6 bits; a source alpha of exactly 0 packs to three zero bytes (R155). -/
def packAbgr6666 (rgba : Word) : Pixel :=
  if alphaOf rgba = 0 then [0, 0, 0]
  else
    let r6 := scale (redOf rgba) 63
    let g6 := scale (greenOf rgba) 63
    let b6 := scale (blueOf rgba) 63
    let a6 := scale (alphaOf rgba) 63
    [lowByte ((b6 <<< 6) ||| a6), lowByte ((g6 <<< 4) ||| (b6 >>> 2)), lowByte ((r6 <<< 2) ||| (g6 >>> 4))]

/-- ABGR8888: the channels as A, B, G, R (R156). -/
def packAbgr8888 (rgba : Word) : Pixel := [alphaOf rgba, blueOf rgba, greenOf rgba, redOf rgba]

/-- `Pack(f, rgba)`, the five-variant multiplexer (R150). -/
def pack (f : Fmt) (rgba : Word) : Pixel :=
  match f with
  | .a8 => packA8 rgba
  | .bgr565 => packBgr565 rgba
  | .bgra8888 => packBgra8888 rgba
  | .abgr6666 => packAbgr6666 rgba
  | .abgr8888 => packAbgr8888 rgba

/-- PACK's OK response: the packed pixel's bytes little-endian in one word (R81, R150). It changes no other state. -/
def answerPixel (w : Word) (p : Pixel) (s : State) : Host.Outcome State Fault Refusal :=
  .next (s.respond [okHeader w, fromLE p])

/-- PACK.A8 (R152). -/
def execPackA8 (rgba : Word) (s : State) : Host.Outcome State Fault Refusal :=
  answerPixel (Instr.packA8 rgba).word (pack .a8 rgba) s

/-- PACK.BGR565 (R153). -/
def execPackBgr565 (rgba : Word) (s : State) : Host.Outcome State Fault Refusal :=
  answerPixel (Instr.packBgr565 rgba).word (pack .bgr565 rgba) s

/-- PACK.BGRA8888 (R154). -/
def execPackBgra8888 (rgba : Word) (s : State) : Host.Outcome State Fault Refusal :=
  answerPixel (Instr.packBgra8888 rgba).word (pack .bgra8888 rgba) s

/-- PACK.ABGR6666 (R155). -/
def execPackAbgr6666 (rgba : Word) (s : State) : Host.Outcome State Fault Refusal :=
  answerPixel (Instr.packAbgr6666 rgba).word (pack .abgr6666 rgba) s

/-- PACK.ABGR8888 (R156). -/
def execPackAbgr8888 (rgba : Word) (s : State) : Host.Outcome State Fault Refusal :=
  answerPixel (Instr.packAbgr8888 rgba).word (pack .abgr8888 rgba) s

end Sys2Proof.Machine
end

