-- ==== Sys2Proof/Machine/Rle.lean ====
section
/-! DEFINITION. The run-length encoder (spec/41_rle.md): sections and their emission, RLE_INIT, RLE_PUSH and RLE_FLUSH. The
bodies of RLE_PUSH and RLE_FLUSH are also those of PIX and EOI (spec/44_datapath.md R191, R193). -/

namespace Sys2Proof.Machine

/-- `MAX_COUNT`, the largest count of a section (spec/00_scope.md R8). -/
def maxCount : Nat := 127

/-- The control byte, `(mode << 7) | (cnt & 0x7F)` (R120). -/
def controlByte (mode : RleMode) (cnt : Nat) : Byte :=
  (if mode.bit then 0x80 else 0x00) ||| (BitVec.ofNat 8 cnt &&& 0x7F)

/-- A section: one control byte, then its payload (R120). -/
def sectionBytes (mode : RleMode) (cnt : Nat) (payload : List Byte) : List Byte := controlByte mode cnt :: payload

/-- `EmitSection(mode, cnt, payload)`: append the section, or nothing when it is empty (R121). -/
def emitSection (mode : RleMode) (cnt : Nat) (payload : List Byte) (s : State) : Except Trap State :=
  if cnt = 0 then .ok s else append (sectionBytes mode cnt payload) s

/-- The pixel in RLE_LAST, `LE_bpp(RLE_LAST[8*bpp-1:0])` (R31, R123). -/
def State.lastPixel (s : State) : Pixel := pixelOf (bppOf s.rleBpm1) s.rleLast

/-- The Idle state of the encoder, its BPP kept (R33). -/
def State.rleIdle (s : State) : State :=
  { s with rleMode := .raw, rlePend := false, rleCnt := 0, rawBuf := [], rleLast := 0 }

/-- `RLE_LAST <- fromLE(p); PEND <- 1`: p becomes the pending pixel (R125, R127). -/
def State.setPending (s : State) (p : Pixel) : State := { s with rleLast := fromLE p, rlePend := true }

/-- `RAWBUF <- RAWBUF ++ [last]; CNT <- CNT + 1`: commit the pending pixel to the raw section (R127, R128). -/
def State.commitPending (s : State) : State :=
  { s with rawBuf := s.rawBuf ++ [s.lastPixel], rleCnt := s.rleCnt + 1 }

/-- The run continues (R124): count it; at 127 emit the section and go to Idle. -/
def rleContinue (s : State) : Except Trap State :=
  if (s.rleCnt + 1).toNat = maxCount then
    (emitSection .compress maxCount s.lastPixel s).map State.rleIdle
  else .ok { s with rleCnt := s.rleCnt + 1 }

/-- The run ends (R125): emit it; p is pending in raw mode with an empty section buffer. -/
def rleEndRun (p : Pixel) (s : State) : Except Trap State :=
  (emitSection .compress s.rleCnt.toNat s.lastPixel s).map fun t => t.rleIdle.setPending p

/-- A run starts (R126): emit the raw section without the pending pixel; compress mode with the pending pixel counted twice. -/
def rleStartRun (s : State) : Except Trap State :=
  (emitSection .raw s.rleCnt.toNat s.rawBuf.flatten s).map fun t =>
    { t with rawBuf := [], rleMode := .compress, rleCnt := 2, rlePend := false }

/-- No run (R127): commit the pending pixel if there is one, emit the raw section if that fills it; p becomes pending. -/
def rleLiteral (p : Pixel) (s : State) : Except Trap State :=
  if !s.rlePend then .ok (s.setPending p)
  else if s.commitPending.rleCnt.toNat = maxCount then
    (emitSection .raw maxCount s.commitPending.rawBuf.flatten s.commitPending).map fun t =>
      { t with rawBuf := [], rleCnt := 0 }.setPending p
  else .ok (s.commitPending.setPending p)

/-- The four branches of RLE_PUSH on a pixel (R123 to R127). -/
def rlePixel (p : Pixel) (s : State) : Except Trap State :=
  match s.rleMode with
  | .compress => if p = s.lastPixel then rleContinue s else rleEndRun p s
  | .raw => if s.rlePend = true ∧ p = s.lastPixel then rleStartRun s else rleLiteral p s

/-- The body of RLE_PUSH with operand P, in a command with command word W: RequireCA, then the pixel (R123). -/
def rlePushBody (w p : Word) (s : State) : Except Trap State :=
  requireBit s.ca w (rlePixel (pixelOf (bppOf s.rleBpm1) p) s)

/-- The pixel stream ends (R128): commit the pending pixel, emit what is buffered, go to Idle. -/
def rleFinish (s : State) : Except Trap State :=
  match s.rleMode with
  | .raw =>
    let t := if s.rlePend then s.commitPending else s
    (emitSection .raw t.rleCnt.toNat t.rawBuf.flatten t).map State.rleIdle
  | .compress => (emitSection .compress s.rleCnt.toNat s.lastPixel s).map State.rleIdle

/-- The body of RLE_FLUSH, in a command with command word W (R128). -/
def rleFlushBody (w : Word) (s : State) : Except Trap State := requireBit s.ca w (rleFinish s)

/-- RLE_INIT's writes to the encoder, which CFG makes too: Idle, with a BPP (R122). -/
def State.rleSetup (s : State) (bpm1 : BitVec 2) : State := { s.rleIdle with rleBpm1 := bpm1, rleCfg := true }

/-- RLE_INIT BPM1 (R122): pixels not yet emitted are discarded; ENC_CFG is cleared. -/
def execRleInit (bpm1 : BitVec 2) (s : State) : Host.Outcome State Fault Refusal :=
  finish (Instr.rleInit bpm1).word s (.ok { s.rleSetup bpm1 with encCfg := false })

/-- RLE_PUSH P (R123). -/
def execRlePush (p : Word) (s : State) : Host.Outcome State Fault Refusal :=
  finishAdv (Instr.rlePush p).word s (requireBit s.rleCfg (Instr.rlePush p).word (rlePushBody (Instr.rlePush p).word p s))

/-- RLE_FLUSH (R128). -/
def execRleFlush (s : State) : Host.Outcome State Fault Refusal :=
  finishAdv Instr.rleFlush.word s (requireBit s.rleCfg Instr.rleFlush.word (rleFlushBody Instr.rleFlush.word s))

end Sys2Proof.Machine
end

