-- ==== Sys2Proof/Machine/Row.lean ====
section
/-! DEFINITION. The row padding/duplication unit (spec/43_row.md): ROW_INIT, ROW_PUSH and ROW_END. The bodies of ROW_PUSH and
ROW_END are also those of PIX and EOR (spec/44_datapath.md R191, R192). -/

namespace Sys2Proof.Machine

/-- `pad = (ROW_BASE - (POS + bpp)) mod 4`, the least non-negative remainder of a possibly negative difference (R172, R199). -/
def rowPad (base : Word) (stop : Nat) : Nat := (((base.toNat : Int) - (stop : Int)) % 4).toNat

/-- The pixel in ROW_LAST, `LE_bpp(ROW_LAST[8*bpp-1:0])` (R36, R172). -/
def State.rowLastPixel (s : State) : Pixel := pixelOf (bppOf s.rowBpm1) s.rowLast

/-- The end of the duplicated last pixel, POS + bpp (R172). -/
def State.rowDupEnd (s : State) : Nat := s.pos.toNat + bppOf s.rowBpm1

/-- `end = POS + bpp + pad`, an unbounded integer (R172). -/
def State.rowStop (s : State) : Nat := s.rowDupEnd + rowPad s.rowBase s.rowDupEnd

/-- The body of ROW_PUSH with operand P, in a command with command word W: RequireCA, append the pixel, remember it (R171). -/
def rowPushBody (w p : Word) (s : State) : Except Trap State :=
  requireBit s.ca w
    ((append (pixelOf (bppOf s.rowBpm1) p) s).map fun t =>
      { t with rowLast := fromLE (pixelOf (bppOf s.rowBpm1) p), rowLastv := true })

/-- The body of ROW_END, in a command with command word W: RequireCA, ROW_EMPTY with FINFO = POS, then the bound of duplicate
and padding together; the padding bytes are skipped, not written (R172). -/
def rowEndBody (w : Word) (s : State) : Except Trap State :=
  requireBit s.ca w
    (require s.rowLastv ⟨.rowEmpty, s.pos⟩
      (if s.rowStop > s.cap.toNat then .error ⟨.cursorBounds, saturate s.rowStop⟩
      else .ok { s.writeAt s.rowLastPixel s.rowStop with rowLastv := false }))

/-- ROW_INIT's writes to the row unit, which CFG makes too; ROW_LAST keeps its old value (R170), of
which RD answers the low 8*BPP bits (spec/10_state.md R36; log entry 12). -/
def State.rowSetup (s : State) (bpm1 : BitVec 2) (base : Word) : State :=
  { s with rowLastv := false, rowBpm1 := bpm1, rowBase := base, rowCfg := true }

/-- ROW_INIT BPM1, BASE (R170): ENC_CFG is cleared. -/
def execRowInit (bpm1 : BitVec 2) (base : Word) (s : State) : Host.Outcome State Fault Refusal :=
  finish (Instr.rowInit bpm1 base).word s (.ok { s.rowSetup bpm1 base with encCfg := false })

/-- ROW_PUSH P (R171). -/
def execRowPush (p : Word) (s : State) : Host.Outcome State Fault Refusal :=
  finishAdv (Instr.rowPush p).word s (requireBit s.rowCfg (Instr.rowPush p).word (rowPushBody (Instr.rowPush p).word p s))

/-- ROW_END (R172). -/
def execRowEnd (s : State) : Host.Outcome State Fault Refusal :=
  finishAdv Instr.rowEnd.word s (requireBit s.rowCfg Instr.rowEnd.word (rowEndBody Instr.rowEnd.word s))

end Sys2Proof.Machine
end

