-- ==== Sys2Proof/Machine/FrontEnd.lean ====
section
/-! DEFINITION. The datapath front end and the register read commands (spec/44_datapath.md): NOP, CFG, PIX, EOR, EOI, RD. -/

namespace Sys2Proof.Machine

/-- NOP "has no effect other than its OK response" (R196, spec/30_encoding.md R79). -/
def execNop (s : State) : Host.Outcome State Fault Refusal := finish Instr.nop.word s (.ok s)

/-- CFG FMT, RLE, BASE (R190): ENC, both units emptied and given the format's BPP, and the three configuration bits. -/
def execCfg (fmt : Fmt) (rle : Bool) (base : Word) (s : State) : Host.Outcome State Fault Refusal :=
  finish (Instr.cfg fmt rle base).word s
    (.ok { (s.rleSetup (bpm1Of fmt)).rowSetup (bpm1Of fmt) base with encFmt := fmt, encRle := rle, encCfg := true })

/-- The configured emitter takes a packed pixel: the RLE encoder if ENC.RLEEN = 1, else the row unit (R191). -/
def emitPixel (w pk : Word) (s : State) : Except Trap State :=
  if s.encRle then rlePushBody w pk s else rowPushBody w pk s

/-- PIX RGBA (R191): pack with ENC.FMT and feed the emitter. -/
def execPix (rgba : Word) (s : State) : Host.Outcome State Fault Refusal :=
  finishAdv (Instr.pix rgba).word s
    (requireBit s.encCfg (Instr.pix rgba).word
      (requireBit s.ca (Instr.pix rgba).word
        (emitPixel (Instr.pix rgba).word (fromLE (pack s.encFmt rgba)) s)))

/-- EOR (R192): without RLE the body of ROW_END, with RLE nothing. -/
def execEor (s : State) : Host.Outcome State Fault Refusal :=
  finishAdv Instr.eor.word s
    (requireBit s.encCfg Instr.eor.word
      (requireBit s.ca Instr.eor.word (if s.encRle then .ok s else rowEndBody Instr.eor.word s)))

/-- EOI (R193): with RLE the body of RLE_FLUSH, without RLE nothing. -/
def execEoi (s : State) : Host.Outcome State Fault Refusal :=
  finishAdv Instr.eoi.word s
    (requireBit s.encCfg Instr.eoi.word
      (requireBit s.ca Instr.eoi.word (if s.encRle then rleFlushBody Instr.eoi.word s else .ok s)))

/-- RD REG (R197): answers the register's value and changes no state. -/
def execRd (reg : Reg) (s : State) : Host.Outcome State Fault Refusal :=
  .next (s.respond [okHeader (Instr.rd reg).word, s.readReg reg])

end Sys2Proof.Machine
end

