-- ==== Sys2Proof/Machine/Dispatch.lean ====
section
/-! DEFINITION. One arm per command: what an executed command does to the block (spec/30_encoding.md R76). -/

namespace Sys2Proof.Machine

def exec (i : Instr) (s : State) : Host.Outcome State Fault Refusal :=
  match i with
  | .nop => Sys2Proof.Machine.execNop s
  | .curAlloc x => Sys2Proof.Machine.execCurAlloc x s
  | .curSeek x => Sys2Proof.Machine.execCurSeek x s
  | .curTell => Sys2Proof.Machine.execCurTell s
  | .curWrite n data => Sys2Proof.Machine.execCurWrite n data s
  | .curSlice start stop => Sys2Proof.Machine.execCurSlice start stop s
  | .packA8 rgba => Sys2Proof.Machine.execPackA8 rgba s
  | .packBgr565 rgba => Sys2Proof.Machine.execPackBgr565 rgba s
  | .packBgra8888 rgba => Sys2Proof.Machine.execPackBgra8888 rgba s
  | .packAbgr6666 rgba => Sys2Proof.Machine.execPackAbgr6666 rgba s
  | .packAbgr8888 rgba => Sys2Proof.Machine.execPackAbgr8888 rgba s
  | .rleInit bpm1 => Sys2Proof.Machine.execRleInit bpm1 s
  | .rlePush p => Sys2Proof.Machine.execRlePush p s
  | .rleFlush => Sys2Proof.Machine.execRleFlush s
  | .rowInit bpm1 base => Sys2Proof.Machine.execRowInit bpm1 base s
  | .rowPush p => Sys2Proof.Machine.execRowPush p s
  | .rowEnd => Sys2Proof.Machine.execRowEnd s
  | .cfg fmt rle base => Sys2Proof.Machine.execCfg fmt rle base s
  | .pix rgba => Sys2Proof.Machine.execPix rgba s
  | .eor => Sys2Proof.Machine.execEor s
  | .eoi => Sys2Proof.Machine.execEoi s
  | .rd reg => Sys2Proof.Machine.execRd reg s

end Sys2Proof.Machine
end

