-- ==== Sys2Proof/Machine/Port.lean ====
section
/-! DEFINITION. The command port, the reset input and the response port (spec/10_state.md R37, spec/30_encoding.md R70,
spec/60_exceptions.md R245, spec/70_reset_and_hazards.md R270): what the block does with one event at its ports. -/

namespace Sys2Proof.Machine

/-- Every rejection but FMT 5 to 7 is an ILLEGAL_COMMAND (spec/30_encoding.md R78, R241). -/
def causeOf : DecodeError → Cause
  | .undefinedOpcode => .illegalCommand
  | .reservedBit => .illegalCommand
  | .unsupportedFormat => .unsupportedFormat
  | .undefinedRegister => .illegalCommand

/-- A word arrives. In the fault state it is accepted and dropped (R245). Otherwise it joins the part-received command; a
whole command is executed, a rejected one faults with FINFO = W (R70, R78, R242). -/
def acceptWord (w : Word) (s : State) : Host.Outcome State Fault Refusal :=
  if s.fault then .next s
  else
    match decode (s.part ++ [w]) with
    | .incomplete => .next { s with part := s.part ++ [w] }
    | .rejected e cw rest => .next (State.takeFault { s with part := rest } cw ⟨causeOf e, cw⟩)
    | .command i rest => exec i { s with part := rest }

/-- Reset (R270): the part-received command and the undelivered responses are discarded, every register takes its reset value;
what the host does afterwards is not touched. -/
def State.afterReset (s : State) : State := { State.reset with input := s.input }

/-- One event at the ports; with none the block "is idle and holds its state indefinitely" (R250). -/
def handleEvent (s : State) : Host.Outcome State Fault Refusal :=
  match s.input with
  | [] => .next s
  | .commandWord w :: evs => acceptWord w { s with input := evs }
  | .resetInput :: evs => .next (State.afterReset { s with input := evs })
  | .deliver :: evs => .next { s with input := evs, rsp := s.rsp.drop 1 }

/-- Put the words of one command at the command port: all but the last already received, the last one arriving next. -/
def State.offerCommand (s : State) (ws : List Word) : State :=
  { s with part := ws.dropLast, input := (ws.drop (ws.length - 1)).map PortEvent.commandWord }

end Sys2Proof.Machine
end

