-- ==== Sys2Proof/Machine/Step.lean ====
section
/-! DEFINITION. One step of the block: it takes one event at its ports, and runs the command a word completes
(spec/70_reset_and_hazards.md R273: "A model may take each command as one atomic step"). Log entries 1 to 4. -/

namespace Sys2Proof.Machine

/-- One step (Machine/Port.lean). -/
def step (s : State) : Host.Outcome State Fault Refusal := handleEvent s

/-- The block fetches no program: its commands come from the host. This puts the words of one command at the command port so
that the very next step receives the last of them and runs it (log entry 4). -/
def State.withFetchWord (s : State) (nbits w : Nat) : State := s.offerCommand (tableWords nbits w)

end Sys2Proof.Machine
end

