-- ==== Sys2Proof/Machine/Driver.lean ====
section
/-! DEFINITION. The host protocol of spec/45_host.md (R210 to R232): format resolution, sizing, the command sequences of an
encode, the 40-byte header and auto mode, as functions that drive the block through its ports; and the pseudo-commands of
spec/30_encoding.md R83. These are the host's duties, not block hardware (spec/00_scope.md R5). -/

namespace Sys2Proof.Driver

open Sys2Proof.Machine

/-! ## The host's inputs and errors -/

/-- The caller-facing output formats (R210). -/
inductive OutputFormat where
  | rgb565
  | rgba4444
  | rgba6666
  | rgba8888
  | a8
  deriving DecidableEq, Repr

/-- The `rle` argument of an encode (R210). -/
inductive RleOption where
  | on
  | off
  | auto
  deriving DecidableEq, Repr

/-- A raster image: row-major, channels R, G, B, A (R14, R210). -/
structure Image where
  width : Word
  height : Word
  data : List Byte
  deriving DecidableEq, Repr

/-- Why an encode ends with no output. -/
inductive EncodeError where
  /-- The output format has no texture format (R212). -/
  | unsupportedFormat
  /-- A zero dimension or a data length mismatch (R213). -/
  | preconditionViolation
  /-- The capacity of R216 passes CAP_MAX (R213). -/
  | capacityExceeded
  /-- The block answered with a FAULT response or not at all; R247 says that a host that follows the protocol never sees it. -/
  | blockFault
  deriving DecidableEq, Repr

/-- The texture format of an output format and an RLE flag; RGBA4444 has none (R211, R212). -/
def resolveFormat : OutputFormat → Bool → Option Fmt
  | .rgb565, _ => some .bgr565
  | .rgba6666, _ => some .abgr6666
  | .rgba8888, true => some .abgr8888
  | .rgba8888, false => some .bgra8888
  | .a8, _ => some .a8
  | .rgba4444, _ => none

/-- "`len(data) = width*height*4`" and no zero dimension (R213). -/
def Image.valid (img : Image) : Bool :=
  decide (0 < img.width.toNat) && decide (0 < img.height.toNat) &&
    img.data.length == img.width.toNat * img.height.toNat * 4

/-- The input pixel at column x and row y, as an RGBA operand (R210). -/
def Image.pixel (img : Image) (x y : Nat) : Word := fromLE ((img.data.drop (4 * (y * img.width.toNat + x))).take 4)

/-! ## Sizing -/

/-- The worst-case RLE payload (R214). -/
def rleBound (w h bpp : Nat) : Nat := w * h * (bpp + 1)

/-- The worst-case non-RLE payload (R215). -/
def nonRleBound (w h bpp : Nat) : Nat := (w + 1) * (h + 1) * bpp + (h + 1) * 3

/-- The header's length and the payload's offset (R217, R221). -/
def headerLength : Nat := 40

/-- The capacity the host allocates (R216). -/
def capacity (w h bpp : Nat) (rle : Bool) : Nat := (if rle then rleBound w h bpp else nonRleBound w h bpp) + headerLength

/-- `roundup4(n)` (spec/43_row.md R174). -/
def roundup4 (n : Nat) : Nat := 4 * ((n + 3) / 4)

/-- The bytes of one uncompressed row with its duplicated last pixel and padding (R174). -/
def rowBytes (w bpp : Nat) : Nat := roundup4 ((w + 1) * bpp)

/-! ## Pseudo-commands (R83) -/

/-- `cur.rewind` is `cur.seek 0`. -/
def curRewind : Instr := .curSeek 0

/-- `cur.write b0, b1, ...`: N is the number of bytes, the data packed by R74 (R82). -/
def curWriteBytes (bs : List Byte) : Instr := .curWrite (BitVec.ofNat 32 bs.length) (wordsOf bs)

/-- `cur.write.w32 v0, ..., v(k-1)`: the 4k bytes of the words, little-endian. -/
def curWriteW32 (vs : List Word) : Instr := curWriteBytes (vs.flatMap leBytes)

/-- `cfg.a8 MODE, BASE`. -/
def cfgA8 (rle : Bool) (base : Word) : Instr := .cfg .a8 rle base

/-- `cfg.rgb565 MODE, BASE`. -/
def cfgRgb565 (rle : Bool) (base : Word) : Instr := .cfg .bgr565 rle base

/-- `cfg.rgba6666 MODE, BASE`. -/
def cfgRgba6666 (rle : Bool) (base : Word) : Instr := .cfg .abgr6666 rle base

/-- `cfg.rgba8888 rle, BASE` and `cfg.rgba8888 raw, BASE`. -/
def cfgRgba8888 (rle : Bool) (base : Word) : Instr := if rle then .cfg .abgr8888 true base else .cfg .bgra8888 false base

/-! ## The command sequences -/

/-- The prologue of one encode (R217). -/
def prologue (cap : Nat) (fmt : Fmt) (rle : Bool) : List Instr :=
  [.curAlloc (BitVec.ofNat 32 cap), .cfg fmt rle (BitVec.ofNat 32 headerLength), .curSeek (BitVec.ofNat 32 headerLength)]

/-- One row: its pixels left to right, then EOR (R218). -/
def rowCommands (img : Image) (y : Nat) : List Instr :=
  (List.range img.width.toNat).map (fun x => Instr.pix (img.pixel x y)) ++ [.eor]

/-- All rows top to bottom, and without RLE the final row a second time (R218, R219). -/
def imageCommands (img : Image) (rle : Bool) : List Instr :=
  (List.range img.height.toNat).flatMap (rowCommands img) ++ (if rle then [] else rowCommands img (img.height.toNat - 1))

/-- Everything up to and including EOI (R217 to R220). -/
def streamCommands (img : Image) (fmt : Fmt) (rle : Bool) : List Instr :=
  prologue (capacity img.width.toNat img.height.toNat fmt.bpp rle) fmt rle ++ imageCommands img rle ++ [.eoi]

/-- formatCode, word 4 of the header (R221, R222). -/
def formatCode (fmt : Fmt) (rle : Bool) : Word := Config.texCode fmt ||| (if rle then 0x10000000 else 0)

/-- The ten header words, with T the end of the payload (R221). -/
def headerWords (img : Image) (fmt : Fmt) (rle : Bool) (t : Word) : List Word :=
  [0x0A697874, 0x20000028, t - BitVec.ofNat 32 headerLength, 0, formatCode fmt rle, if rle then 0 else 1, img.width,
    img.height, t - BitVec.ofNat 32 headerLength, 0xDEADBEEF]

/-- The header is written last, after a backward seek (R224). -/
def headerCommands (img : Image) (fmt : Fmt) (rle : Bool) (t : Word) : List Instr :=
  [curRewind, curWriteW32 (headerWords img fmt rle t)]

/-! ## Driving the block -/

/-- Let the block take a list of port events, one step each. -/
def runEvents : List PortEvent → State → Option State
  | [], s => some s
  | e :: es, s =>
    match step { s with input := [e] } with
    | .next t => runEvents es t
    | .fault _ => none
    | .refused _ => none

/-- KIND of a response header (R81). -/
def kindField (h : Word) : BitVec 8 := h.extractLsb' 16 8

/-- Send one command and read its whole response; the result words of an OK response, or an error (log entry 3). Words of earlier
commands that still wait come first and are read first: "Responses leave in command order" (spec/20_memory.md R63), so the
command's own response is the words after them (R81). -/
def issue (i : Instr) (s : State) : Except EncodeError (List Word × State) :=
  match runEvents ((encode i).map PortEvent.commandWord) s with
  | none => .error .blockFault
  | some t =>
    match t.rsp.drop s.rsp.length with
    | [] => .error .blockFault
    | h :: ws => if kindField h = 0 then .ok (ws, { t with rsp := [] }) else .error .blockFault

/-- Send commands in order, reading and discarding their result words. -/
def issueAll : List Instr → State → Except EncodeError State
  | [], s => .ok s
  | i :: is, s =>
    match issue i s with
    | .error e => .error e
    | .ok (_, t) => issueAll is t

/-- The bytes of a CUR_SLICE response: L, then the words that carry them (R81). -/
def sliceBytes : List Word → List Byte
  | [] => []
  | l :: ws => (ws.flatMap leBytes).take l.toNat

/-- The commands of one encode, after the host's checks (R217 to R225): the stream, T, the header, the output. -/
def drive (img : Image) (fmt : Fmt) (rle : Bool) (s : State) : Except EncodeError (List Byte × State) :=
  match issueAll (streamCommands img fmt rle) s with
  | .error e => .error e
  | .ok s1 =>
    match issue .curTell s1 with
    | .error e => .error e
    | .ok (tell, s2) =>
      match issueAll (headerCommands img fmt rle (tell.headD 0)) s2 with
      | .error e => .error e
      | .ok s3 =>
        match issue (.curSlice none none) s3 with
        | .error e => .error e
        | .ok (out, s4) => .ok (sliceBytes out, s4)

/-- The block as an encode takes it. A faulted block is reset: the host "must reset after any fault" (R229). So is one in the
middle of a command, whose words would otherwise be read as that command's (R70); R229 allows the reset (log entry 20). -/
def prepare (s : State) : State := if s.fault ∨ s.part ≠ [] then s.afterReset else s

/-- `HostEncode(image, rle, outputFormat)` (R210 to R225), whatever came before it on the block (R229). The checks come before any
command (R212, R213; their order is log entry 15). -/
def hostEncode (img : Image) (rle : Bool) (f : OutputFormat) (s : State) : Except EncodeError (List Byte × State) :=
  match resolveFormat f rle with
  | none => .error .unsupportedFormat
  | some fmt =>
    if !img.valid then .error .preconditionViolation
    else if Config.capMax < capacity img.width.toNat img.height.toNat fmt.bpp rle then .error .capacityExceeded
    else drive img fmt rle (prepare s)

/-- Auto mode's choice: the RLE encoding if its payload is at most the analytic non-RLE bound (R226). -/
def keepsRle (out : List Byte) (img : Image) (fmt : Fmt) : Bool :=
  decide (out.length - headerLength ≤ nonRleBound img.width.toNat img.height.toNat fmt.bpp)

/-- `HostEncodeAuto(image, outputFormat)` (R226), with a reset between the two encodes (R229). -/
def hostEncodeAuto (img : Image) (f : OutputFormat) (s : State) : Except EncodeError (List Byte × State) :=
  match hostEncode img true f s with
  | .error e => .error e
  | .ok (out, t) =>
    match resolveFormat f false with
    | none => .error .unsupportedFormat
    | some fmt => if keepsRle out img fmt then .ok (out, t) else hostEncode img false f t.afterReset

/-- `encode(image, {rle, outputFormat})` with its three values of `rle` (R210). -/
def encodeImage (img : Image) (rle : RleOption) (f : OutputFormat) (s : State) : Except EncodeError (List Byte × State) :=
  match rle with
  | .on => hostEncode img true f s
  | .off => hostEncode img false f s
  | .auto => hostEncodeAuto img f s

end Sys2Proof.Driver
end

