-- ==== Sys2Proof/Safety.lean ====
section
/-! DEFINITION. The terms that claims about TXIENC use: what a safe step is, the invariants the spec states (spec/10_state.md R25
to R36, spec/40_cursor.md R108, spec/41_rle.md R133, spec/44_datapath.md R194), sequences of commands that complete, and the
reading of a section stream (R131). -/

namespace Sys2Proof.Machine

/-! ## Safe steps and sequences of commands -/

/-- A step is safe when it answers a next state: the model neither stops nor refuses. -/
def State.safe (s : State) : Prop := ∃ t, step s = .next t

/-- Execute commands in order; none as soon as one stops or faults (spec/60_exceptions.md R245: after a fault nothing is
executed). -/
def execAll : List Instr → State → Option State
  | [], s => some s
  | i :: is, s =>
    match exec i s with
    | .next t => if t.fault then none else execAll is t
    | .fault _ => none
    | .refused _ => none

/-- The n bytes of BUF from an offset on, as `MemRead` finds them inside CAP (R12). -/
def State.bytesAt (s : State) (a n : Nat) : List Byte := (List.range n).map fun k => Memory.read s.buf (a + k)

/-! ## What claims say of responses, writes and faults, in the spec's own terms -/

/-- The state after fault entry (spec/60_exceptions.md R244): the state before the command, plus FAULT, CAUSE and FINFO, and
the FAULT response H = OPC<<24 | 0x01<<16, CAUSE, FINFO (R81). -/
def State.faultedBy (s : State) (w : Word) (c : Cause) (info : Word) : State :=
  { s with
    fault := true
    cause := c
    finfo := info
    rsp := s.rsp ++ [(w &&& 0xFF000000#32) ||| 0x00010000#32, c.code.setWidth 32, info] }

/-- FINFO of a bounds fault: `min(end, 0xFFFFFFFF)` (R242). -/
def boundsInfo (stop : Nat) : Word := BitVec.ofNat 32 (min stop (2 ^ 32 - 1))

/-- The bytes that differ between two states are those of `bs`, written at the first one's POS; every other byte of BUF reads
as before (spec/20_memory.md R51). -/
def State.Wrote (s t : State) (bs : List Byte) : Prop :=
  ∀ a, Memory.read t.buf a =
    if s.pos.toNat ≤ a ∧ a < s.pos.toNat + bs.length then bs.getD (a - s.pos.toNat) 0 else Memory.read s.buf a

/-- POS has moved on by n, and EXTENT is its high-water mark (R26, R27). -/
def State.Advanced (s t : State) (n : Nat) : Prop :=
  t.pos.toNat = s.pos.toNat + n ∧ t.extent.toNat = max s.extent.toNat (s.pos.toNat + n)

/-- The length of a command in words, read from the words so far (R80). -/
def commandLength (w : Word) (ops : List Word) : Nat :=
  if (opcField w).toNat ∈ [0x00, 0x03, 0x22, 0x32, 0x42, 0x43, 0x20, 0x50] then 1
  else if (opcField w).toNat ∈ [0x01, 0x02, 0x21, 0x31, 0x41, 0x10, 0x30, 0x40] then 2
  else if (opcField w).toNat = 0x04 then
    match ops with
    | [] => 2
    | n :: _ => 2 + (n.toNat + 3) / 4
  else if (opcField w).toNat = 0x05 then 1 + (w.getLsbD 0).toNat + (w.getLsbD 1).toNat
  else 1

/-- The section that pushing the pixel p emits, if any (spec/41_rle.md R124 to R127). -/
def State.pushSection (s : State) (p : Pixel) : List Byte :=
  match s.rleMode with
  | .compress =>
    if p = s.lastPixel then if s.rleCnt.toNat = 126 then 0xFF#8 :: s.lastPixel else []
    else if s.rleCnt.toNat = 0 then [] else BitVec.ofNat 8 (128 + s.rleCnt.toNat) :: s.lastPixel
  | .raw =>
    if s.rlePend = true then
      if p = s.lastPixel then
        if s.rleCnt.toNat = 0 then [] else BitVec.ofNat 8 s.rleCnt.toNat :: s.rawBuf.flatten
      else if s.rleCnt.toNat = 126 then 0x7F#8 :: (s.rawBuf ++ [s.lastPixel]).flatten
      else []
    else []

/-- The section that a flush emits, if any (R128). -/
def State.flushSection (s : State) : List Byte :=
  match s.rleMode with
  | .compress => if s.rleCnt.toNat = 0 then [] else BitVec.ofNat 8 (128 + s.rleCnt.toNat) :: s.lastPixel
  | .raw =>
    if s.rlePend = true then BitVec.ofNat 8 (s.rleCnt.toNat + 1) :: (s.rawBuf ++ [s.lastPixel]).flatten
    else if s.rleCnt.toNat = 0 then [] else BitVec.ofNat 8 s.rleCnt.toNat :: s.rawBuf.flatten

/-- The commands that "written by" names for each register (spec/10_state.md R21), faults apart. -/
def writtenBy : Reg → Instr → Bool
  | .status, .curAlloc _ | .status, .rleInit _ | .status, .rowInit _ _ | .status, .cfg _ _ _ => true
  | .cap, .curAlloc _ => true
  | .pos, .curAlloc _ | .pos, .curSeek _ | .pos, .curWrite _ _ | .pos, .rlePush _ | .pos, .rleFlush | .pos, .rowPush _
  | .pos, .rowEnd | .pos, .pix _ | .pos, .eor | .pos, .eoi => true
  | .extent, .curAlloc _ | .extent, .curSeek _ | .extent, .curWrite _ _ | .extent, .rlePush _ | .extent, .rleFlush
  | .extent, .rowPush _ | .extent, .rowEnd | .extent, .pix _ | .extent, .eor | .extent, .eoi => true
  | .enc, .cfg _ _ _ => true
  | .rleState, .rleInit _ | .rleState, .rlePush _ | .rleState, .rleFlush | .rleState, .cfg _ _ _ | .rleState, .pix _
  | .rleState, .eoi => true
  | .rleLast, .rleInit _ | .rleLast, .rlePush _ | .rleLast, .rleFlush | .rleLast, .cfg _ _ _ | .rleLast, .pix _
  | .rleLast, .eoi => true
  | .rowBase, .rowInit _ _ | .rowBase, .cfg _ _ _ => true
  | .rowState, .rowInit _ _ | .rowState, .rowPush _ | .rowState, .rowEnd | .rowState, .cfg _ _ _ | .rowState, .pix _
  | .rowState, .eor => true
  | .rowLast, .rowPush _ | .rowLast, .pix _ => true
  | _, _ => false

/-- The OK result words of R81's table, for a command that takes s to t. -/
def resultWords (i : Instr) (s t : State) : List Word :=
  match i with
  | .nop => []
  | .curAlloc _ => []
  | .curSeek _ => []
  | .curTell => [s.pos]
  | .curWrite _ _ => []
  | .curSlice start stop =>
    (stop.getD s.extent - start.getD 0) ::
      wordsOf (s.bytesAt (start.getD 0).toNat ((stop.getD s.extent).toNat - (start.getD 0).toNat))
  | .packA8 rgba => [fromLE (pack .a8 rgba)]
  | .packBgr565 rgba => [fromLE (pack .bgr565 rgba)]
  | .packBgra8888 rgba => [fromLE (pack .bgra8888 rgba)]
  | .packAbgr6666 rgba => [fromLE (pack .abgr6666 rgba)]
  | .packAbgr8888 rgba => [fromLE (pack .abgr8888 rgba)]
  | .rleInit _ => []
  | .rlePush _ => [t.pos - s.pos]
  | .rleFlush => [t.pos - s.pos]
  | .rowInit _ _ => []
  | .rowPush _ => [t.pos - s.pos]
  | .rowEnd => [t.pos - s.pos]
  | .cfg _ _ _ => []
  | .pix _ => [t.pos - s.pos]
  | .eor => [t.pos - s.pos]
  | .eoi => [t.pos - s.pos]
  | .rd r => [s.readReg r]

/-! ## The invariants -/

/-- The cursor: `POS <= EXTENT <= CAP` (R26, R27, R108), BUF canonical and inside CAP (R28), nothing before CUR_ALLOC. -/
structure State.CursorInv (s : State) : Prop where
  pos_le_extent : s.pos.toNat ≤ s.extent.toNat
  extent_le_cap : s.extent.toNat ≤ s.cap.toNat
  buf_canonical : Memory.wf s.buf = true
  buf_inside : ∀ c ∈ s.buf, c.1 < s.cap.toNat
  unallocated : s.ca = false → s.cap = 0

/-- No two adjacent elements of a list are equal. -/
def adjacentDiffer : List Pixel → Bool
  | p :: q :: ps => decide (p ≠ q) && adjacentDiffer (q :: ps)
  | [_] => true
  | [] => true

/-- Idle: MODE = 0, PEND = 0, CNT = 0, RAWBUF = [], RLE_LAST = 0 (R33). -/
def State.isIdle (s : State) : Prop :=
  s.rleMode = .raw ∧ s.rlePend = false ∧ s.rleCnt = 0 ∧ s.rawBuf = [] ∧ s.rleLast = 0

/-- Raw: MODE = 0, PEND = 1, 0 <= CNT <= 126, len(RAWBUF) = CNT (R33). -/
def State.isRaw (s : State) : Prop :=
  s.rleMode = .raw ∧ s.rlePend = true ∧ s.rleCnt.toNat ≤ 126 ∧ s.rawBuf.length = s.rleCnt.toNat

/-- Compress: MODE = 1, PEND = 0, 2 <= CNT <= 126, RAWBUF = [] (R33). -/
def State.isCompress (s : State) : Prop :=
  s.rleMode = .compress ∧ s.rlePend = false ∧ 2 ≤ s.rleCnt.toNat ∧ s.rleCnt.toNat ≤ 126 ∧ s.rawBuf = []

/-- The RLE encoder: one of the three states of R33, pixels of BPP bytes (R31, R32), no two adjacent pixels of the raw section
to come equal (R133), untouched before it is configured (R40). -/
structure State.RleInv (s : State) : Prop where
  three_states : s.isIdle ∨ s.isRaw ∨ s.isCompress
  pixel_widths : ∀ p ∈ s.rawBuf, p.length = bppOf s.rleBpm1
  last_fits : s.rleLast.toNat < 2 ^ (8 * bppOf s.rleBpm1)
  adjacent : s.isRaw → adjacentDiffer (s.rawBuf ++ [s.lastPixel]) = true
  unconfigured : s.rleCfg = false → s.isIdle ∧ s.rleBpm1 = 0

/-- The row unit: while LASTV = 1, ROW_LAST holds a pixel of BPP bytes (R35, R36; log entry 12); untouched before it is
configured (R40). -/
structure State.RowInv (s : State) : Prop where
  last_fits : s.rowLastv = true → s.rowLast.toNat < 2 ^ (8 * bppOf s.rowBpm1)
  unconfigured : s.rowCfg = false → s.rowLastv = false ∧ s.rowBpm1 = 0 ∧ s.rowBase = 0 ∧ s.rowLast = 0

/-- The front end: while ENC_CFG = 1 both units are configured with the format's BPP (R194). -/
def State.FrontInv (s : State) : Prop :=
  s.encCfg = true →
    s.rleCfg = true ∧ s.rowCfg = true ∧ s.rleBpm1 = bpm1Of s.encFmt ∧ s.rowBpm1 = bpm1Of s.encFmt

/-- The fault registers: CAUSE and FINFO are 0 until a fault, and a fault has a cause (R23, R24, R241). -/
structure State.FaultInv (s : State) : Prop where
  running : s.fault = false → s.cause = .none ∧ s.finfo = 0
  faulted : s.fault = true → s.cause ≠ .none ∧ s.part = []

/-- "The block holds at most one command that it has partly received" (R37): what has arrived is no whole command yet. -/
def State.PartInv (s : State) : Prop := decode s.part = .incomplete

/-- Everything the spec says always holds, but for CAP <= CAP_MAX. -/
structure State.Inv (s : State) : Prop where
  cursor : s.CursorInv
  rle : s.RleInv
  row : s.RowInv
  front : s.FrontInv
  faults : s.FaultInv
  port : s.PartInv

/-- "0 <= CAP <= CAP_MAX always holds" (R25). -/
def State.CapInv (s : State) : Prop := s.cap.toNat ≤ Config.capMax

/-! ## Reading a section stream -/

/-- A byte sequence cut into n pixels of bpp bytes. -/
def chunks (bpp : Nat) : Nat → List Byte → List Pixel
  | 0, _ => []
  | n + 1, bs => bs.take bpp :: chunks bpp n (bs.drop bpp)

/-- Expanding sections in order (R131): "A raw section expands to its cnt payload pixels. A compressed section expands to cnt
copies of its payload pixel." None on a control byte that R130 says never occurs, and on a payload cut short. -/
def expandSections (bpp : Nat) : Nat → List Byte → Option (List Pixel)
  | _, [] => some []
  | 0, _ :: _ => none
  | fuel + 1, c :: rest =>
    if c.getLsbD 7 then
      if (c &&& 0x7F).toNat < 2 ∨ rest.length < bpp then none
      else (expandSections bpp fuel (rest.drop bpp)).map (List.replicate (c &&& 0x7F).toNat (rest.take bpp) ++ ·)
    else
      if (c &&& 0x7F).toNat < 1 ∨ rest.length < (c &&& 0x7F).toNat * bpp then none
      else
        (expandSections bpp fuel (rest.drop ((c &&& 0x7F).toNat * bpp))).map
          (chunks bpp (c &&& 0x7F).toNat rest ++ ·)

/-- The bytes of one uncompressed row: its pixels, the last one again, and zeros up to rowBytes (spec/43_row.md R174,
spec/70_reset_and_hazards.md R287). -/
def paddedRow (bpp : Nat) (row : List Pixel) : List Byte :=
  row.flatten ++ row.getLast?.getD [] ++
    List.replicate (Driver.rowBytes row.length bpp - (row.length + 1) * bpp) 0

/-- The uncompressed payload of an image: its rows top to bottom, the final row a second time (spec/45_host.md R218, R219). -/
def rawPayload (img : Driver.Image) (fmt : Fmt) : List Byte :=
  (List.range img.height.toNat ++ [img.height.toNat - 1]).flatMap fun y =>
    paddedRow fmt.bpp ((List.range img.width.toNat).map fun x => pack fmt (img.pixel x y))

/-- The bytes R134 gives for a run of n pixels p from Idle, followed by a flush. -/
def runBytes (p : Pixel) (n : Nat) : List Byte :=
  (List.replicate (n / 127) (0xFF#8 :: p)).flatten ++
    (if n % 127 = 0 then [] else if n % 127 = 1 then 0x01#8 :: p else BitVec.ofNat 8 (0x80 + n % 127) :: p)

end Sys2Proof.Machine
end

