-- ==== Sys2Proof/Certificates/Slice0/Obligations.lean ====
section
/-! DEFINITION. The statements for the provers. Each docstring names the rule of spec/ it formalises, or says that it rests on
the model's own choice and names the log entry. -/

open Sys2Proof Sys2Proof.Machine Sys2Proof.Driver

/-! ## Encoding -/

/-- Decoding the words of a well-formed command gives it back, whatever follows them (spec/30_encoding.md R70, R72, R73). -/
def Obligations.DecodeOfEncode : Prop :=
  ∀ (i : Instr) (rest : List Word), i.wellFormed = true → decode (encode i ++ rest) = .command i rest

/-- What the decoder reads as a command is a well-formed command whose words are exactly those read (R72, R77). -/
def Obligations.EncodeOfDecode : Prop :=
  ∀ (ws rest : List Word) (i : Instr), decode ws = .command i rest → i.wellFormed = true ∧ encode i ++ rest = ws

/-- R77: a word is a command word exactly when it fits exactly one row of the table; and no two rows overlap. -/
def Obligations.CommandWordsFitOneRow : Prop :=
  (∀ w : Word, (∃ ops i, decode (w :: ops) = .command i []) ↔ (opcodeRows.filter (·.fits w)).length = 1) ∧
    ∀ w : Word, (opcodeRows.filter fun r => w &&& r.mask == r.pattern).length ≤ 1

/-- R80: the decoder waits exactly while fewer words than the command's length have arrived. -/
def Obligations.FramingFollowsTheLengthRule : Prop :=
  ∀ (w : Word) (ops : List Word), decode (w :: ops) = .incomplete ↔ 1 + ops.length < commandLength w ops

/-- Command words written out decode to what they stand for: examples of the command rules (R77), RD of every register of R21's
map, and PACK and CFG with every FMT code of R7. -/
def Obligations.SampleWordsDecode : Prop :=
  decode [0x40900000, 0x00000028] = .command (.cfg .abgr8888 true 40) [] ∧
    decode [0x30010000, 0x00000028] = .command (.rowInit 1 40) [] ∧
    decode [0x04000000, 0x00000005, 0x44332211, 0xAABBCC55] = .command (.curWrite 5 [0x44332211, 0xAABBCC55]) [] ∧
    decode [0x05000003, 0x00000028, 0x0000002C] = .command (.curSlice (some 40) (some 44)) [] ∧
    decode [0x10600000, 0xFF0000FF] = .command (.packAbgr6666 0xFF0000FF) [] ∧
    decode [0x50000007] = .command (.rd .rleState) [] ∧
    (([0x50000000, 0x50000001, 0x50000002, 0x50000003, 0x50000004, 0x50000005, 0x50000006, 0x50000007, 0x50000008, 0x50000009,
        0x5000000A, 0x5000000B] : List Word).map fun w => decode [w]) =
      ([.status, .cause, .finfo, .cap, .pos, .extent, .enc, .rleState, .rleLast, .rowBase, .rowState, .rowLast] : List Reg).map
        (fun r => .command (.rd r) []) ∧
    (([0x10000000, 0x10200000, 0x10400000, 0x10600000, 0x10800000] : List Word).map fun w => decode [w, 0x78563412]) =
      ([.packA8 0x78563412, .packBgr565 0x78563412, .packBgra8888 0x78563412, .packAbgr6666 0x78563412,
        .packAbgr8888 0x78563412] : List Instr).map (fun i => .command i []) ∧
    (([0x40000000, 0x40200000, 0x40400000, 0x40600000, 0x40800000] : List Word).map fun w => decode [w, 40]) =
      ([.a8, .bgr565, .bgra8888, .abgr6666, .abgr8888] : List Fmt).map (fun f => .command (.cfg f false 40) []) ∧
    (([0x40100000, 0x40300000, 0x40500000, 0x40700000, 0x40900000] : List Word).map fun w => decode [w, 40]) =
      ([.a8, .bgr565, .bgra8888, .abgr6666, .abgr8888] : List Fmt).map (fun f => .command (.cfg f true 40) [])

/-- R78: the last word of a command that matches no row of R77 makes the block fault, with the cause of (a) to (d) in the order
of R243 and FINFO = W. -/
def Obligations.RejectedCommandWordsFault : Prop :=
  ∀ (s : State) (w last : Word) (ops : List Word) (evs : List PortEvent), s.fault = false →
    s.input = .commandWord last :: evs → s.part ++ [last] = w :: ops → 1 + ops.length = commandLength w ops →
    ((opcField w).toNat ∉ [0x00, 0x01, 0x02, 0x03, 0x04, 0x05, 0x10, 0x20, 0x21, 0x22, 0x30, 0x31, 0x32, 0x40, 0x41, 0x42,
        0x43, 0x50] →
      step s = .next (State.faultedBy { s with input := evs, part := [] } w .illegalCommand w)) ∧
    (∀ o, Opc.ofByte (opcField w) = some o → w &&& o.format.reserved ≠ 0 →
      step s = .next (State.faultedBy { s with input := evs, part := [] } w .illegalCommand w)) ∧
    ((opcField w = 0x10 ∧ w &&& 0x001FFFFF = 0 ∨ opcField w = 0x40 ∧ w &&& 0x000FFFFF = 0) → 5 ≤ (fmtField w).toNat →
      step s = .next (State.faultedBy { s with input := evs, part := [] } w .unsupportedFormat w)) ∧
    (opcField w = 0x50 → w &&& 0x00FFFF00 = 0 → 0x0C ≤ (regField w).toNat →
      step s = .next (State.faultedBy { s with input := evs, part := [] } w .illegalCommand w))

/-! ## The ports -/

/-- A step runs the decoded command: when the arriving word completes a command, the step is that command's execution, on the
state with the event taken and the part-received command gone (R70; the event list is log entry 1). -/
def Obligations.StepRunsDecodedCommand : Prop :=
  ∀ (s : State) (w : Word) (evs : List PortEvent) (i : Instr) (rest : List Word), s.fault = false →
    s.input = .commandWord w :: evs → decode (s.part ++ [w]) = .command i rest →
    step s = exec i { s with input := evs, part := rest }

/-- While the words of a command arrive one by one, nothing changes but the port; at the last one the command is executed
(R70: "The block executes a command only after all of its words have arrived"). -/
def Obligations.CommandRunsWhenAllWordsArrived : Prop :=
  ∀ (s : State) (i : Instr) (evs : List PortEvent), i.wellFormed = true → s.fault = false → s.part = [] →
    s.input = (encode i).map PortEvent.commandWord ++ evs →
    (∀ k, k < (encode i).length →
      Host.Core.run Sys2Proof.core k s = .next { s with part := (encode i).take k, input := s.input.drop k }) ∧
    Host.Core.run Sys2Proof.core (encode i).length s = exec i { s with input := evs }

/-- With nothing at its ports the block holds its state (spec/60_exceptions.md R250); a delivery only takes the oldest response
word (the model's choice, log entry 3). -/
def Obligations.IdleAndDelivery : Prop :=
  (∀ s : State, s.input = [] → step s = .next s) ∧
    ∀ (s : State) (evs : List PortEvent), s.input = .deliver :: evs →
      step s = .next { s with input := evs, rsp := s.rsp.drop 1 }

/-- R270: reset abandons the part-received command, discards undelivered responses, zeroes every register and empties RAWBUF,
also out of the fault state; no byte of BUF can be observed. -/
def Obligations.ResetEventGivesFreshState : Prop :=
  ∀ (s : State) (evs : List PortEvent), s.input = .resetInput :: evs →
    ∃ t, step s = .next t ∧ t.part = [] ∧ t.rsp = [] ∧ (∀ r, t.readReg r = 0) ∧ t.rawBuf = [] ∧ t.input = evs ∧
      (∀ a, t.readByte a = none) ∧ t = { State.reset with input := evs }

/-- R40: what reset leaves. -/
def Obligations.FreshStateIsZero : Prop :=
  (∀ r, State.reset.readReg r = 0) ∧ State.reset.rawBuf = [] ∧ State.reset.part = [] ∧ State.reset.rsp = [] ∧
    ∀ a, State.reset.readByte a = none

/-- R272: in the fresh state NOP, RD, PACK, CUR_ALLOC, RLE_INIT, ROW_INIT and CFG can succeed; every other command faults with
NOT_CONFIGURED. -/
def Obligations.FreshStateOutcomes : Prop :=
  ∀ i : Instr,
    match i with
    | .nop | .packA8 _ | .packBgr565 _ | .packBgra8888 _ | .packAbgr6666 _ | .packAbgr8888 _ | .rleInit _ | .rowInit _ _
    | .cfg _ _ _ | .rd _ => ∃ t, exec i State.reset = .next t ∧ t.fault = false
    | .curAlloc x => x.toNat ≤ Config.capMax → ∃ t, exec i State.reset = .next t ∧ t.fault = false
    | _ => exec i State.reset = .next (State.reset.faultedBy i.word .notConfigured i.word)

/-! ## Faults and responses -/

/-- R245: in the fault state a word on the command port is dropped and nothing else changes. -/
def Obligations.FaultStateDropsWords : Prop :=
  ∀ (s : State) (w : Word) (evs : List PortEvent), s.fault = true → s.input = .commandWord w :: evs →
    step s = .next { s with input := evs }

/-- R246: without a reset, any number of steps leave a faulted block as it is, but for the words it drops and the responses the
host takes. -/
def Obligations.FaultLeftOnlyByReset : Prop :=
  ∀ (n : Nat) (s : State), s.fault = true → (∀ e ∈ s.input.take n, e ≠ .resetInput) →
    ∃ k, Host.Core.run Sys2Proof.core n s = .next { s with input := s.input.drop n, rsp := s.rsp.drop k }

/-- R244: a command that faults leaves the state from before it, plus FAULT, CAUSE, FINFO and the FAULT response. -/
def Obligations.FaultEntryIsPrecise : Prop :=
  ∀ (i : Instr) (s t : State), s.fault = false → exec i s = .next t → t.fault = true →
    ∃ c info, c ≠ .none ∧ t = s.faultedBy i.word c info

/-- R81: a command that completes sends H with KIND 0x00, then the result words of the table. -/
def Obligations.CompletedCommandsAnswerByTheTable : Prop :=
  ∀ (i : Instr) (s t : State), s.fault = false → s.CursorInv → exec i s = .next t → t.fault = false →
    t.rsp = s.rsp ++ (i.word &&& 0xFF000000#32) :: resultWords i s t

/-- Cursor commands without an allocated buffer, and unit commands without their configuration bit or the buffer, fault with
NOT_CONFIGURED and FINFO = W (R100, R241, R242). -/
def Obligations.UnconfiguredCommandsFault : Prop :=
  ∀ (i : Instr) (s : State),
    (match i with
      | .curSeek _ | .curTell | .curWrite _ _ | .curSlice _ _ => s.ca = false
      | .rlePush _ | .rleFlush => s.rleCfg = false ∨ s.ca = false
      | .rowPush _ | .rowEnd => s.rowCfg = false ∨ s.ca = false
      | .pix _ | .eor | .eoi => s.encCfg = false ∨ s.ca = false
      | _ => False) →
    exec i s = .next (s.faultedBy i.word .notConfigured i.word)

/-! ## The byte cursor -/

/-- R101: up to CAP_MAX, a buffer of X zero bytes and nothing else touched; above, CURSOR_BOUNDS with FINFO = X. -/
def Obligations.CurAllocGivesZeroedBuffer : Prop :=
  ∀ (x : Word) (s : State),
    ∃ t, exec (.curAlloc x) s = .next t ∧
      if x.toNat ≤ Config.capMax then
        t = { s with cap := x, pos := 0, extent := 0, ca := true, buf := t.buf, rsp := s.rsp ++ [0x01000000] } ∧
          ∀ a, t.readByte a = if a < x.toNat then some 0 else none
      else t = s.faultedBy 0x01000000 .cursorBounds x

/-- R102: up to CAP, POS <- X and EXTENT <- max(EXTENT, X), no byte written; above, CURSOR_BOUNDS with FINFO = X. -/
def Obligations.CurSeekMovesPos : Prop :=
  ∀ (x : Word) (s : State), s.ca = true →
    (x.toNat ≤ s.cap.toNat →
      exec (.curSeek x) s =
        .next { s with pos := x, extent := if s.extent.toNat ≤ x.toNat then x else s.extent, rsp := s.rsp ++ [0x02000000] }) ∧
    (s.cap.toNat < x.toNat → exec (.curSeek x) s = .next (s.faultedBy 0x02000000 .cursorBounds x))

/-- R103: answers POS. -/
def Obligations.CurTellAnswersPos : Prop :=
  ∀ s : State, s.ca = true → exec .curTell s = .next { s with rsp := s.rsp ++ [0x03000000, s.pos] }

/-- R105 and R74: the N bytes go to BUF at POS, byte k being D[k div 4][8*(k mod 4)+7 : 8*(k mod 4)]; when they do not fit,
CURSOR_BOUNDS and nothing written. -/
def Obligations.CurWriteAppendsItsBytes : Prop :=
  ∀ (n : Word) (data : List Word) (s : State), (Instr.curWrite n data).wellFormed = true → s.ca = true → s.CursorInv →
    (s.pos.toNat + n.toNat ≤ s.cap.toNat →
      ∃ t, exec (.curWrite n data) s = .next t ∧
        t = { s with pos := t.pos, extent := t.extent, buf := t.buf, rsp := s.rsp ++ [0x04000000] } ∧
        s.Advanced t n.toNat ∧
        ∀ a, Memory.read t.buf a =
          if s.pos.toNat ≤ a ∧ a < s.pos.toNat + n.toNat then
            (data.getD ((a - s.pos.toNat) / 4) 0).extractLsb' (8 * ((a - s.pos.toNat) % 4)) 8
          else Memory.read s.buf a) ∧
    (s.cap.toNat < s.pos.toNat + n.toNat →
      exec (.curWrite n data) s = .next (s.faultedBy 0x04000000 .cursorBounds (boundsInfo (s.pos.toNat + n.toNat))))

/-- R106 and R81: a slice answers L and the bytes BUF[from..to), little-endian with 0 in the unused high bytes, and changes
nothing; `to > EXTENT` and then `from > to` raise SLICE_RANGE. -/
def Obligations.CurSliceAnswersTheBytes : Prop :=
  ∀ (start stop : Option Word) (s : State) (a b : Word), s.ca = true → s.CursorInv → a = start.getD 0 →
    b = stop.getD s.extent →
    (a.toNat ≤ b.toNat → b.toNat ≤ s.extent.toNat →
      ∃ ws, exec (.curSlice start stop) s = .next { s with rsp := s.rsp ++ 0x05000000 :: (b - a) :: ws } ∧
        ws.length = (b.toNat - a.toNat + 3) / 4 ∧
        ∀ k, k < 4 * ws.length →
          (ws.getD (k / 4) 0).extractLsb' (8 * (k % 4)) 8 =
            if k < b.toNat - a.toNat then Memory.read s.buf (a.toNat + k) else 0) ∧
    (s.extent.toNat < b.toNat →
      exec (.curSlice start stop) s = .next (s.faultedBy (Instr.curSlice start stop).word .sliceRange b)) ∧
    (b.toNat ≤ s.extent.toNat → b.toNat < a.toNat →
      exec (.curSlice start stop) s = .next (s.faultedBy (Instr.curSlice start stop).word .sliceRange a))

/-- The model's choice (log entry 9): a slice that would read a byte at or past CAP, which needs EXTENT > CAP, stops. -/
def Obligations.SliceOfMissingBytesStops : Prop :=
  ∀ (a b : Word) (s : State), s.ca = true → a.toNat < b.toNat → b.toNat ≤ s.extent.toNat → s.cap.toNat < b.toNat →
    exec (.curSlice (some a) (some b)) s = .fault .noSuchByte

/-! ## The pixel packer -/

/-- R152, R154 and R156: A8 answers R; BGRA8888 and ABGR8888 answer the four channels reordered. No other state changes. -/
def Obligations.PackReordersChannels : Prop :=
  ∀ (r g b a : Byte) (s : State),
    exec (.packA8 (a ++ b ++ g ++ r)) s = .next { s with rsp := s.rsp ++ [0x10000000, r.setWidth 32] } ∧
      exec (.packBgra8888 (a ++ b ++ g ++ r)) s = .next { s with rsp := s.rsp ++ [0x10000000, a ++ r ++ g ++ b] } ∧
      exec (.packAbgr8888 (a ++ b ++ g ++ r)) s = .next { s with rsp := s.rsp ++ [0x10000000, r ++ g ++ b ++ a] }

/-- R158: the two bytes of BGR565 are LE_2(r5<<11 | g6<<5 | b5), and PACK.BGR565 answers that number. -/
def Obligations.PackBgr565IsLittleEndian : Prop :=
  ∀ (r g b a : Byte) (s : State) (v : Nat),
    v = 2048 * ((r.toNat * 31 + 127) / 255) + 32 * ((g.toNat * 63 + 127) / 255) + (b.toNat * 31 + 127) / 255 →
    packBgr565 (a ++ b ++ g ++ r) = [BitVec.ofNat 8 v, BitVec.ofNat 8 (v / 256)] ∧
      exec (.packBgr565 (a ++ b ++ g ++ r)) s = .next { s with rsp := s.rsp ++ [0x10000000, BitVec.ofNat 32 v] }

/-- R155 and R159: a pixel of source alpha 0 packs to three zero bytes; every other one to
LE_3(r6<<18 | g6<<12 | b6<<6 | a6), and PACK.ABGR6666 answers that number. -/
def Obligations.PackAbgr6666IsLittleEndian : Prop :=
  ∀ (r g b a : Byte) (s : State) (v : Nat),
    (v = if a = 0 then 0 else
      262144 * ((r.toNat * 63 + 127) / 255) + 4096 * ((g.toNat * 63 + 127) / 255) + 64 * ((b.toNat * 63 + 127) / 255) +
        (a.toNat * 63 + 127) / 255) →
    packAbgr6666 (a ++ b ++ g ++ r) = [BitVec.ofNat 8 v, BitVec.ofNat 8 (v / 256), BitVec.ofNat 8 (v / 65536)] ∧
      exec (.packAbgr6666 (a ++ b ++ g ++ r)) s = .next { s with rsp := s.rsp ++ [0x10000000, BitVec.ofNat 32 v] }

/-- R160: scale(0, m) = 0, scale(255, m) = m, scale is monotone, and the least v with scale(v, m) >= k is
ceil((255*k - 127) / m), for m = 31 and m = 63. -/
def Obligations.ScaleStepsWhereStated : Prop :=
  ∀ m : Nat, m = 31 ∨ m = 63 →
    scale 0 m = 0 ∧ scale 255 m = m ∧ (∀ u v : Byte, u.toNat ≤ v.toNat → scale u m ≤ scale v m) ∧
      ∀ (v : Byte) (k : Nat), 1 ≤ k → k ≤ m → (k ≤ scale v m ↔ (255 * k - 127 + (m - 1)) / m ≤ v.toNat)

/-- R13 and R75: a packed-pixel operand P stands for the bytes LE_bpp(P[8*bpp-1:0]); the bits above are ignored. -/
def Obligations.PixelOperandBytes : Prop :=
  ∀ (b : BitVec 2) (p : Word),
    (pixelOf (bppOf b) p).length = b.toNat + 1 ∧
      (∀ k, k < b.toNat + 1 → (pixelOf (bppOf b) p).getD k 0 = p.extractLsb' (8 * k) 8) ∧
      fromLE (pixelOf (bppOf b) p) = BitVec.ofNat 32 (p.toNat % 2 ^ (8 * (b.toNat + 1)))

/-! ## The run-length encoder -/

/-- R122: RLE_INIT empties the encoder, sets its width and clears ENC_CFG; nothing else changes. -/
def Obligations.RleInitEmptiesEncoder : Prop :=
  ∀ (b : BitVec 2) (s : State),
    exec (.rleInit b) s =
      .next { s with rleMode := .raw, rlePend := false, rleCnt := 0, rleBpm1 := b, rleLast := 0, rawBuf := [],
                     rleCfg := true, encCfg := false, rsp := s.rsp ++ [0x20000000] }

/-- R124: in compress mode an equal pixel continues the run; the 127th emits [0xFF] ++ last and returns to Idle. -/
def Obligations.RlePushContinuesRun : Prop :=
  ∀ (p : Word) (s : State), s.CursorInv → s.rleCfg = true → s.ca = true → s.isCompress →
    pixelOf (bppOf s.rleBpm1) p = s.lastPixel →
    (s.rleCnt.toNat < 126 →
      exec (.rlePush p) s = .next { s with rleCnt := s.rleCnt + 1, rsp := s.rsp ++ [0x21000000, 0] }) ∧
    (s.rleCnt.toNat = 126 → s.pos.toNat + (1 + bppOf s.rleBpm1) ≤ s.cap.toNat →
      ∃ t, exec (.rlePush p) s = .next t ∧
        t = { s with rleMode := .raw, rlePend := false, rleCnt := 0, rleLast := 0, pos := t.pos, extent := t.extent,
                     buf := t.buf, rsp := s.rsp ++ [0x21000000, BitVec.ofNat 32 (1 + bppOf s.rleBpm1)] } ∧
        s.Wrote t (0xFF#8 :: s.lastPixel) ∧ s.Advanced t (1 + bppOf s.rleBpm1))

/-- R125: in compress mode a different pixel emits [0x80 | CNT] ++ last and becomes the pending pixel of raw mode. -/
def Obligations.RlePushEndsRun : Prop :=
  ∀ (p : Word) (s : State), s.CursorInv → s.rleCfg = true → s.ca = true → s.isCompress →
    pixelOf (bppOf s.rleBpm1) p ≠ s.lastPixel → s.pos.toNat + (1 + bppOf s.rleBpm1) ≤ s.cap.toNat →
    ∃ t, exec (.rlePush p) s = .next t ∧
      t = { s with rleMode := .raw, rleCnt := 0, rawBuf := [], rlePend := true,
                   rleLast := fromLE (pixelOf (bppOf s.rleBpm1) p), pos := t.pos, extent := t.extent, buf := t.buf,
                   rsp := s.rsp ++ [0x21000000, BitVec.ofNat 32 (1 + bppOf s.rleBpm1)] } ∧
      s.Wrote t (BitVec.ofNat 8 (128 + s.rleCnt.toNat) :: s.lastPixel) ∧ s.Advanced t (1 + bppOf s.rleBpm1)

/-- R126: a pixel equal to the pending one emits the raw section without it (nothing when CNT = 0) and enters compress mode
with the pending pixel as the run pixel and CNT = 2. -/
def Obligations.RlePushStartsRun : Prop :=
  ∀ (p : Word) (s : State) (sec : List Byte), s.CursorInv → s.rleCfg = true → s.ca = true → s.isRaw →
    pixelOf (bppOf s.rleBpm1) p = s.lastPixel →
    (sec = if s.rleCnt.toNat = 0 then [] else BitVec.ofNat 8 s.rleCnt.toNat :: s.rawBuf.flatten) →
    s.pos.toNat + sec.length ≤ s.cap.toNat →
    ∃ t, exec (.rlePush p) s = .next t ∧
      t = { s with rawBuf := [], rleMode := .compress, rleCnt := 2, rlePend := false, pos := t.pos, extent := t.extent,
                   buf := t.buf, rsp := s.rsp ++ [0x21000000, BitVec.ofNat 32 sec.length] } ∧
      s.Wrote t sec ∧ s.Advanced t sec.length

/-- R127: when no run starts, the pending pixel, if there is one, is committed; the 127th committed pixel emits the full raw
section; the pushed pixel becomes pending. -/
def Obligations.RlePushCommitsPendingPixel : Prop :=
  ∀ (p : Word) (s : State), s.CursorInv → s.rleCfg = true → s.ca = true →
    (s.isIdle →
      exec (.rlePush p) s =
        .next { s with rlePend := true, rleLast := fromLE (pixelOf (bppOf s.rleBpm1) p),
                       rsp := s.rsp ++ [0x21000000, 0] }) ∧
    (s.isRaw → pixelOf (bppOf s.rleBpm1) p ≠ s.lastPixel → s.rleCnt.toNat < 126 →
      exec (.rlePush p) s =
        .next { s with rawBuf := s.rawBuf ++ [s.lastPixel], rleCnt := s.rleCnt + 1,
                       rleLast := fromLE (pixelOf (bppOf s.rleBpm1) p), rsp := s.rsp ++ [0x21000000, 0] }) ∧
    (s.isRaw → pixelOf (bppOf s.rleBpm1) p ≠ s.lastPixel → s.rleCnt.toNat = 126 →
      s.pos.toNat + (1 + (s.rawBuf ++ [s.lastPixel]).flatten.length) ≤ s.cap.toNat →
      ∃ t, exec (.rlePush p) s = .next t ∧
        t = { s with rawBuf := [], rleCnt := 0, rleLast := fromLE (pixelOf (bppOf s.rleBpm1) p), pos := t.pos,
                     extent := t.extent, buf := t.buf,
                     rsp := s.rsp ++ [0x21000000, BitVec.ofNat 32 (1 + (s.rawBuf ++ [s.lastPixel]).flatten.length)] } ∧
        s.Wrote t (0x7F#8 :: (s.rawBuf ++ [s.lastPixel]).flatten) ∧
        s.Advanced t (1 + (s.rawBuf ++ [s.lastPixel]).flatten.length))

/-- R128: a flush emits the trailing section, if any, and leaves the encoder Idle with its BPP kept. -/
def Obligations.RleFlushEmitsTrailingSection : Prop :=
  ∀ (s : State) (sec : List Byte), s.CursorInv → s.rleCfg = true → s.ca = true → s.isIdle ∨ s.isRaw ∨ s.isCompress →
    (s.isIdle → sec = []) →
    (s.isRaw → sec = BitVec.ofNat 8 (s.rleCnt.toNat + 1) :: (s.rawBuf ++ [s.lastPixel]).flatten) →
    (s.isCompress → sec = BitVec.ofNat 8 (128 + s.rleCnt.toNat) :: s.lastPixel) →
    s.pos.toNat + sec.length ≤ s.cap.toNat →
    ∃ t, exec .rleFlush s = .next t ∧
      t = { s with rleMode := .raw, rlePend := false, rleCnt := 0, rawBuf := [], rleLast := 0, pos := t.pos,
                   extent := t.extent, buf := t.buf, rsp := s.rsp ++ [0x22000000, BitVec.ofNat 32 sec.length] } ∧
      s.Wrote t sec ∧ s.Advanced t sec.length

/-- A push or flush whose section does not fit faults with CURSOR_BOUNDS, and FINFO is the end of that section (R242, R104). -/
def Obligations.SectionThatDoesNotFitFaults : Prop :=
  ∀ (p : Word) (s : State), s.RleInv → s.CursorInv → s.rleCfg = true → s.ca = true →
    (s.cap.toNat < s.pos.toNat + (s.pushSection (pixelOf (bppOf s.rleBpm1) p)).length →
      exec (.rlePush p) s = .next (s.faultedBy 0x21000000 .cursorBounds
        (boundsInfo (s.pos.toNat + (s.pushSection (pixelOf (bppOf s.rleBpm1) p)).length)))) ∧
    (s.cap.toNat < s.pos.toNat + s.flushSection.length →
      exec .rleFlush s = .next (s.faultedBy 0x22000000 .cursorBounds (boundsInfo (s.pos.toNat + s.flushSection.length))))

/-- R131: expanding the sections that a stream pushed from Idle and flushed emits gives back exactly the pushed pixels. -/
def Obligations.RleRoundTrip : Prop :=
  ∀ (s t : State) (ps : List Word), s.isIdle → s.CursorInv → s.fault = false →
    execAll (ps.map Instr.rlePush ++ [.rleFlush]) s = some t →
    expandSections (bppOf s.rleBpm1) (t.pos.toNat - s.pos.toNat) (t.bytesAt s.pos.toNat (t.pos.toNat - s.pos.toNat)) =
      some (ps.map (pixelOf (bppOf s.rleBpm1)))

/-- R132: a stream of n pixels with room for n * (BPP + 1) bytes completes and emits at most that many; equality holds only for
n <= 1. -/
def Obligations.RleWorstCase : Prop :=
  ∀ (s : State) (ps : List Word), s.isIdle → s.CursorInv → s.fault = false → s.rleCfg = true → s.ca = true →
    s.pos.toNat + ps.length * (bppOf s.rleBpm1 + 1) ≤ s.cap.toNat →
    ∃ t, execAll (ps.map Instr.rlePush ++ [.rleFlush]) s = some t ∧ s.pos.toNat ≤ t.pos.toNat ∧
      t.pos.toNat - s.pos.toNat ≤ ps.length * (bppOf s.rleBpm1 + 1) ∧
      (t.pos.toNat - s.pos.toNat = ps.length * (bppOf s.rleBpm1 + 1) → ps.length ≤ 1)

/-- R134: the exact bytes of a run of n >= 1 equal pixels pushed from Idle and flushed. -/
def Obligations.UniformRunBytes : Prop :=
  ∀ (s t : State) (p : Word) (n : Nat), 1 ≤ n → s.isIdle → s.CursorInv → s.fault = false →
    execAll (List.replicate n (.rlePush p) ++ [.rleFlush]) s = some t →
    t.bytesAt s.pos.toNat (t.pos.toNat - s.pos.toNat) = runBytes (pixelOf (bppOf s.rleBpm1) p) n

/-! ## The row unit -/

/-- R170: ROW_INIT sets width and base, starts a new row and clears ENC_CFG; ROW_LAST and everything else keep their values. -/
def Obligations.RowInitStartsRow : Prop :=
  ∀ (b : BitVec 2) (base : Word) (s : State),
    exec (.rowInit b base) s =
      .next { s with rowLastv := false, rowBpm1 := b, rowBase := base, rowCfg := true, encCfg := false,
                     rsp := s.rsp ++ [0x30000000] }

/-- R171: ROW_PUSH writes its pixel at POS and remembers it; a pixel that does not fit faults. -/
def Obligations.RowPushWritesPixel : Prop :=
  ∀ (p : Word) (s : State), s.CursorInv → s.rowCfg = true → s.ca = true →
    (s.pos.toNat + bppOf s.rowBpm1 ≤ s.cap.toNat →
      ∃ t, exec (.rowPush p) s = .next t ∧
        t = { s with rowLast := fromLE (pixelOf (bppOf s.rowBpm1) p), rowLastv := true, pos := t.pos, extent := t.extent,
                     buf := t.buf, rsp := s.rsp ++ [0x31000000, BitVec.ofNat 32 (bppOf s.rowBpm1)] } ∧
        s.Wrote t (pixelOf (bppOf s.rowBpm1) p) ∧ s.Advanced t (bppOf s.rowBpm1)) ∧
    (s.cap.toNat < s.pos.toNat + bppOf s.rowBpm1 →
      exec (.rowPush p) s =
        .next (s.faultedBy 0x31000000 .cursorBounds (boundsInfo (s.pos.toNat + bppOf s.rowBpm1))))

/-- R172 and R173: ROW_END writes the last pixel again at POS, skips 0 to 3 bytes unwritten so that POS is a multiple of 4 from
ROW_BASE, and ends the row; with no pixel it raises ROW_EMPTY with FINFO = POS, and past CAP CURSOR_BOUNDS. -/
def Obligations.RowEndDuplicatesAndPads : Prop :=
  ∀ (s : State) (pad : Nat), s.CursorInv → s.rowCfg = true → s.ca = true → pad < 4 →
    ((s.pos.toNat + bppOf s.rowBpm1 + pad : Nat) - (s.rowBase.toNat : Int)) % 4 = 0 →
    (s.rowLastv = false → exec .rowEnd s = .next (s.faultedBy 0x32000000 .rowEmpty s.pos)) ∧
    (s.rowLastv = true → s.cap.toNat < s.pos.toNat + bppOf s.rowBpm1 + pad →
      exec .rowEnd s =
        .next (s.faultedBy 0x32000000 .cursorBounds (boundsInfo (s.pos.toNat + bppOf s.rowBpm1 + pad)))) ∧
    (s.rowLastv = true → s.pos.toNat + bppOf s.rowBpm1 + pad ≤ s.cap.toNat →
      ∃ t, exec .rowEnd s = .next t ∧
        t = { s with rowLastv := false, pos := t.pos, extent := t.extent, buf := t.buf,
                     rsp := s.rsp ++ [0x32000000, BitVec.ofNat 32 (bppOf s.rowBpm1 + pad)] } ∧
        s.Wrote t (pixelOf (bppOf s.rowBpm1) s.rowLast) ∧ s.Advanced t (bppOf s.rowBpm1 + pad) ∧
        ((t.pos.toNat : Int) - (t.rowBase.toNat : Int)) % 4 = 0)

/-- R174: a row of w >= 1 pixels from an aligned POS takes rowBytes(w, bpp) bytes: its pixels, the last one again, then padding
that is skipped; and the padding per bpp is as the table says. -/
def Obligations.RowLayout : Prop :=
  (∀ (s : State) (ps : List Word) (last : Word), s.CursorInv → s.fault = false → s.rowCfg = true → s.ca = true →
    ((s.pos.toNat : Int) - (s.rowBase.toNat : Int)) % 4 = 0 →
    s.pos.toNat + rowBytes (ps.length + 1) (bppOf s.rowBpm1) ≤ s.cap.toNat →
    ∃ t, execAll ((ps ++ [last]).map Instr.rowPush ++ [.rowEnd]) s = some t ∧
      s.Advanced t (rowBytes (ps.length + 1) (bppOf s.rowBpm1)) ∧
      s.Wrote t ((ps ++ [last, last]).flatMap (pixelOf (bppOf s.rowBpm1)))) ∧
  ∀ w : Nat, 1 ≤ w →
    rowBytes w 1 - (w + 1) * 1 = (4 - (w + 1) % 4) % 4 ∧ rowBytes w 2 - (w + 1) * 2 = (if w % 2 = 1 then 0 else 2) ∧
      rowBytes w 3 - (w + 1) * 3 = (4 - (3 * w + 3) % 4) % 4 ∧ rowBytes w 4 - (w + 1) * 4 = 0

/-- R178: h >= 1 rows of w pixels, the final row replayed, written from ROW_BASE on, take exactly (h + 1) * rowBytes(w, bpp)
bytes, which is at most the source's bound. -/
def Obligations.UncompressedPayloadLength : Prop :=
  ∀ (s : State) (rows : List (List Word)) (final : List Word) (w : Nat), s.CursorInv → s.fault = false → s.rowCfg = true →
    s.ca = true → s.pos = s.rowBase → 1 ≤ w → (∀ r ∈ rows ++ [final], r.length = w) →
    s.pos.toNat + (rows.length + 2) * rowBytes w (bppOf s.rowBpm1) ≤ s.cap.toNat →
    (∃ t, execAll ((rows ++ [final, final]).flatMap fun r => r.map Instr.rowPush ++ [.rowEnd]) s = some t ∧
      t.pos.toNat = s.pos.toNat + (rows.length + 2) * rowBytes w (bppOf s.rowBpm1)) ∧
    (rows.length + 2) * rowBytes w (bppOf s.rowBpm1) ≤ nonRleBound w (rows.length + 1) (bppOf s.rowBpm1)

/-! ## The front end -/

/-- R190: CFG sets ENC, empties both units with the format's BPP and sets the three configuration bits; ROW_LAST and everything
else keep their values. -/
def Obligations.CfgConfiguresBothUnits : Prop :=
  ∀ (f : Fmt) (rle : Bool) (base : Word) (s : State),
    exec (.cfg f rle base) s =
      .next { s with encFmt := f, encRle := rle, rleMode := .raw, rlePend := false, rleCnt := 0,
                     rleBpm1 := BitVec.ofNat 2 (f.bpp - 1), rleLast := 0, rawBuf := [], rowLastv := false,
                     rowBpm1 := BitVec.ofNat 2 (f.bpp - 1), rowBase := base, rleCfg := true, rowCfg := true, encCfg := true,
                     rsp := s.rsp ++ [0x40000000] }

/-- R191: PIX packs its pixel and feeds the configured emitter; when what the emitter writes fits, PIX completes, POS grows by
its length, and only the emitter's registers change. -/
def Obligations.PixFeedsTheEmitter : Prop :=
  ∀ (rgba : Word) (s : State), s.Inv → s.encCfg = true → s.ca = true →
    (s.encRle = true → s.pos.toNat + (s.pushSection (pack s.encFmt rgba)).length ≤ s.cap.toNat →
      ∃ t, exec (.pix rgba) s = .next t ∧
        t = { s with rleMode := t.rleMode, rlePend := t.rlePend, rleCnt := t.rleCnt, rleLast := t.rleLast,
                     rawBuf := t.rawBuf, pos := t.pos, extent := t.extent, buf := t.buf,
                     rsp := s.rsp ++ [0x41000000, BitVec.ofNat 32 (s.pushSection (pack s.encFmt rgba)).length] } ∧
        s.Wrote t (s.pushSection (pack s.encFmt rgba)) ∧ s.Advanced t (s.pushSection (pack s.encFmt rgba)).length) ∧
    (s.encRle = false → s.pos.toNat + s.encFmt.bpp ≤ s.cap.toNat →
      ∃ t, exec (.pix rgba) s = .next t ∧
        t = { s with rowLast := fromLE (pack s.encFmt rgba), rowLastv := true, pos := t.pos, extent := t.extent,
                     buf := t.buf, rsp := s.rsp ++ [0x41000000, BitVec.ofNat 32 s.encFmt.bpp] } ∧
        s.Wrote t (pack s.encFmt rgba) ∧ s.Advanced t s.encFmt.bpp)

/-- R195: PIX has the effect of PACK followed by the push of its result, EOR that of ROW_END without RLE and of NOP with RLE,
EOI that of RLE_FLUSH with RLE and of NOP without, on every register and on BUF; the ADVs are equal, or the same fault is
taken. Only the response header, and NOP's lack of an ADV word, tell them apart. -/
def Obligations.FrontEndIsTheUnits : Prop :=
  ∀ (rgba : Word) (s : State), s.FrontInv → s.encCfg = true → s.ca = true →
    (∃ (t : State) (k : Word) (r : List Word),
      (k = 0 ∨ k = 0x00010000) ∧ exec (.pix rgba) s = .next { t with rsp := s.rsp ++ (0x41000000 ||| k) :: r } ∧
      exec (if s.encRle then .rlePush (fromLE (pack s.encFmt rgba)) else .rowPush (fromLE (pack s.encFmt rgba))) s =
        .next { t with rsp := s.rsp ++ ((if s.encRle then 0x21000000 else 0x31000000) ||| k) :: r }) ∧
    (s.encRle = false → ∃ (t : State) (k : Word) (r : List Word),
      (k = 0 ∨ k = 0x00010000) ∧ exec .eor s = .next { t with rsp := s.rsp ++ (0x42000000 ||| k) :: r } ∧
        exec .rowEnd s = .next { t with rsp := s.rsp ++ (0x32000000 ||| k) :: r }) ∧
    (s.encRle = true → exec .eor s = .next { s with rsp := s.rsp ++ [0x42000000, 0] } ∧
      exec .nop s = .next { s with rsp := s.rsp ++ [0x00000000] }) ∧
    (s.encRle = true → ∃ (t : State) (k : Word) (r : List Word),
      (k = 0 ∨ k = 0x00010000) ∧ exec .eoi s = .next { t with rsp := s.rsp ++ (0x43000000 ||| k) :: r } ∧
        exec .rleFlush s = .next { t with rsp := s.rsp ++ (0x22000000 ||| k) :: r }) ∧
    (s.encRle = false → exec .eoi s = .next { s with rsp := s.rsp ++ [0x43000000, 0] } ∧
      exec .nop s = .next { s with rsp := s.rsp ++ [0x00000000] })

/-- EOR and EOI complete: EOR with RLE, and without RLE when the row has a pixel and its duplicate and padding fit (R192); EOI
without RLE, and with RLE when the trailing section fits (R193). -/
def Obligations.EorAndEoiComplete : Prop :=
  ∀ (s : State) (pad : Nat), s.Inv → s.encCfg = true → s.ca = true → pad < 4 →
    ((s.pos.toNat + s.encFmt.bpp + pad : Nat) - (s.rowBase.toNat : Int)) % 4 = 0 →
    (s.encRle = true → exec .eor s = .next { s with rsp := s.rsp ++ [0x42000000, 0] }) ∧
    (s.encRle = false → s.rowLastv = true → s.pos.toNat + s.encFmt.bpp + pad ≤ s.cap.toNat →
      ∃ t, exec .eor s = .next t ∧
        t = { s with rowLastv := false, pos := t.pos, extent := t.extent, buf := t.buf,
                     rsp := s.rsp ++ [0x42000000, BitVec.ofNat 32 (s.encFmt.bpp + pad)] } ∧
        s.Wrote t (pixelOf s.encFmt.bpp s.rowLast) ∧ s.Advanced t (s.encFmt.bpp + pad)) ∧
    (s.encRle = false → exec .eoi s = .next { s with rsp := s.rsp ++ [0x43000000, 0] }) ∧
    (s.encRle = true → s.pos.toNat + s.flushSection.length ≤ s.cap.toNat →
      ∃ t, exec .eoi s = .next t ∧
        t = { s with rleMode := .raw, rlePend := false, rleCnt := 0, rawBuf := [], rleLast := 0, pos := t.pos,
                     extent := t.extent, buf := t.buf,
                     rsp := s.rsp ++ [0x43000000, BitVec.ofNat 32 s.flushSection.length] } ∧
        s.Wrote t s.flushSection ∧ s.Advanced t s.flushSection.length)

/-- R196 and R197: NOP does nothing but answer its header, and RD answers the register and changes no other state. -/
def Obligations.NopAndRdOnlyAnswer : Prop :=
  ∀ (r : Reg) (s : State),
    exec .nop s = .next { s with rsp := s.rsp ++ [0x00000000] } ∧
      exec (.rd r) s = .next { s with rsp := s.rsp ++ [0x50000000, s.readReg r] }

/-- What RD answers for each register: the fields of STATUS, CAUSE, ENC, RLE_STATE and ROW_STATE where R22, R23, R29, R30 and
R35 place them, CAUSE by the numbers of R241, RLE_LAST and ROW_LAST in the low 8*BPP bits (R31, R36), every other bit 0; and the
status sideband shows FAULT, CAUSE[7:0] and FINFO (R37, R248). -/
def Obligations.RegisterFieldLayout : Prop :=
  ∀ s : State,
    (s.readReg .status).toNat =
      s.fault.toNat + 2 * s.ca.toNat + 4 * s.rleCfg.toNat + 8 * s.rowCfg.toNat + 16 * s.encCfg.toNat ∧
    (s.readReg .cause).toNat =
      (match s.cause with
        | .none => 0
        | .illegalCommand => 1
        | .unsupportedFormat => 2
        | .cursorBounds => 3
        | .sliceRange => 4
        | .notConfigured => 5
        | .rowEmpty => 6) ∧
    s.readReg .finfo = s.finfo ∧ s.readReg .cap = s.cap ∧ s.readReg .pos = s.pos ∧ s.readReg .extent = s.extent ∧
    (s.readReg .enc).toNat = s.encFmt.code.toNat + 8 * s.encRle.toNat ∧
    (s.readReg .rleState).toNat =
      (if s.rleMode = .compress then 1 else 0) + 2 * s.rlePend.toNat + 4 * s.rleCnt.toNat + 512 * s.rleBpm1.toNat ∧
    (s.readReg .rleLast).toNat = s.rleLast.toNat % 2 ^ (8 * (s.rleBpm1.toNat + 1)) ∧
    s.readReg .rowBase = s.rowBase ∧
    (s.readReg .rowState).toNat = s.rowLastv.toNat + 2 * s.rowBpm1.toNat ∧
    (s.readReg .rowLast).toNat = s.rowLast.toNat % 2 ^ (8 * (s.rowBpm1.toNat + 1)) ∧
    s.faultOut = (s.readReg .status).getLsbD 0 ∧ s.causeOut = (s.readReg .cause).extractLsb' 0 8 ∧
    s.finfoOut = s.readReg .finfo

/-! ## The whole machine -/

/-- The fresh state satisfies every invariant (R40). -/
def Obligations.ResetSatisfiesInvariant : Prop := State.reset.Inv

/-- The invariants of R26, R27, R28, R31, R33, R36, R37, R108, R133 and R194 are kept by every step, whatever arrives. -/
def Obligations.StepKeepsInvariant : Prop := ∀ s t : State, s.Inv → step s = .next t → t.Inv

/-- In a state that satisfies the invariants, every step answers a next state: no model fault, no refusal (R108: no read of a
byte that does not exist). -/
def Obligations.InvariantStatesNeverStop : Prop := ∀ s : State, s.Inv → s.safe

/-- R25: "0 <= CAP <= CAP_MAX always holds": it holds after reset and every step keeps it; and only CUR_ALLOC changes CAP. -/
def Obligations.CapStaysWithinCapMax : Prop :=
  State.reset.CapInv ∧ (∀ s t : State, s.CapInv → step s = .next t → t.CapInv) ∧
    ∀ (i : Instr) (s t : State), exec i s = .next t → t.cap ≠ s.cap → ∃ x, i = .curAlloc x

/-- R21: each register is written only by the commands its row names; a fault writes only STATUS, CAUSE and FINFO. What RD answers
for ROW_LAST also changes when ROW_INIT or CFG changes the BPP whose low bytes it shows (R36; log entry 12). -/
def Obligations.RegistersWrittenOnlyAsListed : Prop :=
  ∀ (i : Instr) (s t : State), s.fault = false → exec i s = .next t →
    (∀ r : Reg, r ≠ .rowLast → t.readReg r ≠ s.readReg r →
      (t.fault = false ∧ writtenBy r i = true) ∨ (t.fault = true ∧ (r = .status ∨ r = .cause ∨ r = .finfo))) ∧
    (t.rowLast ≠ s.rowLast → t.fault = false ∧ writtenBy .rowLast i = true) ∧
    (t.readReg .rowLast ≠ s.readReg .rowLast →
      t.fault = false ∧ (writtenBy .rowLast i = true ∨ t.rowBpm1 ≠ s.rowBpm1))

/-- R22: no command clears CA, RLE_CFG or ROW_CFG; ENC_CFG is set only by CFG and cleared only by RLE_INIT and ROW_INIT; CA is
set only by CUR_ALLOC, RLE_CFG only by RLE_INIT and CFG, ROW_CFG only by ROW_INIT and CFG. -/
def Obligations.ConfigurationBitTransitions : Prop :=
  ∀ (i : Instr) (s t : State), exec i s = .next t →
    (t.ca ≠ s.ca → t.ca = true ∧ ∃ x, i = .curAlloc x) ∧
    (t.rleCfg ≠ s.rleCfg → t.rleCfg = true ∧ ((∃ b, i = .rleInit b) ∨ ∃ f r b, i = .cfg f r b)) ∧
    (t.rowCfg ≠ s.rowCfg → t.rowCfg = true ∧ ((∃ b x, i = .rowInit b x) ∨ ∃ f r b, i = .cfg f r b)) ∧
    (t.encCfg ≠ s.encCfg →
      (t.encCfg = true ∧ ∃ f r b, i = .cfg f r b) ∨
        (t.encCfg = false ∧ ((∃ b, i = .rleInit b) ∨ ∃ b x, i = .rowInit b x)))

/-- Apart from CUR_ALLOC, a command changes no byte of BUF below the POS it started at, nor at or above the POS it leaves; and
the commands R51 does not list change none at all (R51, R60). -/
def Obligations.WritesStayBetweenOldAndNewPos : Prop :=
  ∀ (i : Instr) (s t : State), s.CursorInv → exec i s = .next t → (∀ x, i ≠ .curAlloc x) →
    (∀ a, a < s.pos.toNat ∨ t.pos.toNat ≤ a → Memory.read t.buf a = Memory.read s.buf a) ∧
    (match i with
      | .curWrite _ _ | .rlePush _ | .rleFlush | .rowPush _ | .rowEnd | .pix _ | .eor | .eoi => True
      | _ => t.buf = s.buf)

/-! ## The host protocol -/

/-- The ten words of the header are those of R221's table, whatever TexCode is; words 2 and 8 are equal, word 5 is the complement
of "RLE used", bit 28 of word 4 is "RLE used", and the header's CUR_WRITE carries 40 bytes (spec/45_host.md R221 to R224). -/
def Obligations.HeaderWordsAgree : Prop :=
  ∀ (img : Image) (fmt : Fmt) (rle : Bool) (t code : Word),
    (code = if rle then Config.texCode fmt ||| 0x10000000 else Config.texCode fmt) →
    headerWords img fmt rle t =
        [0x0A697874, 0x20000028, t - 40, 0, code, if rle then 0 else 1, img.width, img.height, t - 40, 0xDEADBEEF] ∧
      (headerWords img fmt rle t).length = 10 ∧
      (headerWords img fmt rle t).getD 2 0 = (headerWords img fmt rle t).getD 8 0 ∧
      (headerWords img fmt rle t).getD 5 0 = (if rle then 0 else 1) ∧
      ((headerWords img fmt rle t).getD 4 0).getLsbD 28 = rle ∧ (headerWords img fmt rle t).getD 9 0 = 0xDEADBEEF ∧
      curWriteW32 (headerWords img fmt rle t) = .curWrite 40 (headerWords img fmt rle t)

/-- R247: a host that follows the protocol never sees a fault. Whatever came before on the block (a faulted block, and by the model's
choice, log entry 20, one in the middle of a command, is reset first), an encode ends in an error only if the check of that name
fails (R212, R213), and otherwise completes. Its output is then the header of R221, with the output's length as T, and the payload: without RLE the
rows, each with its last pixel twice and zero padding, and the final row again (R174, R218, R219, R231, R287); with RLE sections
that expand to the packed pixels and are no longer than the bound (R232). -/
def Obligations.HostProtocolNeverFaults : Prop :=
  ∀ (img : Image) (rle : Bool) (f : OutputFormat) (s : State),
    match hostEncode img rle f s with
    | .error .unsupportedFormat => resolveFormat f rle = none
    | .error .preconditionViolation =>
      img.width = 0 ∨ img.height = 0 ∨ img.data.length ≠ img.width.toNat * img.height.toNat * 4
    | .error .capacityExceeded =>
      ∃ fmt, resolveFormat f rle = some fmt ∧ Config.capMax < capacity img.width.toNat img.height.toNat fmt.bpp rle
    | .error .blockFault => False
    | .ok (out, t) =>
      t.fault = false ∧ img.width ≠ 0 ∧ img.height ≠ 0 ∧ img.data.length = img.width.toNat * img.height.toNat * 4 ∧
        ∃ fmt, resolveFormat f rle = some fmt ∧
          capacity img.width.toNat img.height.toNat fmt.bpp rle ≤ Config.capMax ∧
          out.take 40 = (headerWords img fmt rle (BitVec.ofNat 32 out.length)).flatMap leBytes ∧
          (rle = false →
            out.length = 40 + (img.height.toNat + 1) * rowBytes img.width.toNat fmt.bpp ∧
              out.drop 40 = rawPayload img fmt) ∧
          (rle = true →
            40 ≤ out.length ∧ out.length ≤ 40 + rleBound img.width.toNat img.height.toNat fmt.bpp ∧
              expandSections fmt.bpp (out.length - 40) (out.drop 40) =
                some ((List.range img.height.toNat).flatMap fun y =>
                  (List.range img.width.toNat).map fun x => pack fmt (img.pixel x y)))

/-- R229: two encodes of the same image and options return byte-identical outputs, or the same error, whatever came before them
on the block: any registers and BUF, any undelivered responses, and, since the host resets such a block first, a fault or a
part-received command (for the latter the reset is the model's choice, log entry 20). -/
def Obligations.EncodeForgetsThePast : Prop :=
  ∀ (img : Image) (rle : Bool) (f : OutputFormat) (s₁ s₂ : State),
    (hostEncode img rle f s₁).map Prod.fst = (hostEncode img rle f s₂).map Prod.fst

/-- R226 and R227: auto mode returns the RLE encoding when its payload is at most the non-RLE bound, else the non-RLE encoding;
what it returns is never longer than that bound and the header; an error is that of one of the two encodes (R228), and never a
fault, whatever came before on the block (log entry 20). -/
def Obligations.AutoModeStaysWithinBound : Prop :=
  ∀ (img : Image) (f : OutputFormat) (s : State),
    match hostEncodeAuto img f s with
    | .error e =>
      e ≠ .blockFault ∧
        ((hostEncode img true f s).map Prod.fst = .error e ∨ (hostEncode img false f s).map Prod.fst = .error e)
    | .ok (out, _) =>
      ∃ fmt r t, resolveFormat f false = some fmt ∧ hostEncode img true f s = .ok (r, t) ∧
        out.length ≤ nonRleBound img.width.toNat img.height.toNat fmt.bpp + 40 ∧
        (r.length - 40 ≤ nonRleBound img.width.toNat img.height.toNat fmt.bpp → out = r) ∧
        (nonRleBound img.width.toNat img.height.toNat fmt.bpp < r.length - 40 →
          (hostEncode img false f s).map Prod.fst = .ok out)
end

