-- ==== Sys2Proof/Laws/Decode.lean ====
section
/-! SUPPORT. Codes name what they encode, both ways, and what the decoder does on one opcode: the lemmas that proofs about
decoding cite instead of unfolding it. -/

namespace Sys2Proof

@[simp] theorem Fmt.ofCode_code (f : Fmt) : Fmt.ofCode f.code = some f := by cases f <;> rfl

@[simp] theorem Reg.ofIndex_index (r : Reg) : Reg.ofIndex r.index = some r := by cases r <;> rfl

@[simp] theorem Opc.ofByte_byte (o : Opc) : Opc.ofByte o.byte = some o := by cases o <;> rfl

theorem Fmt.code_of_ofCode {c : BitVec 3} {f : Fmt} (h : Fmt.ofCode c = some f) : c = f.code := by
  revert f; revert c; decide +revert

theorem Reg.index_of_ofIndex {c : BitVec 8} {r : Reg} (h : Reg.ofIndex c = some r) : c = r.index := by
  unfold Reg.ofIndex at h
  split at h <;> first
    | (cases h; exact BitVec.eq_of_toNat_eq (by assumption))
    | cases h

theorem Opc.byte_of_ofByte {c : BitVec 8} {o : Opc} (h : Opc.ofByte c = some o) : c = o.byte := by
  unfold Opc.ofByte at h
  split at h <;> first
    | (cases h; exact BitVec.eq_of_toNat_eq (by assumption))
    | cases h

/-- An FMT code names a format exactly when it is at most 4 (R73). -/
theorem Fmt.ofCode_isSome (c : BitVec 3) : (Fmt.ofCode c).isSome = decide (c.toNat ≤ 4) := by
  revert c; decide

/-- A register index names a register exactly when it is at most 0x0B (R21). -/
theorem Reg.ofIndex_isSome (c : BitVec 8) : (Reg.ofIndex c).isSome = decide (c.toNat ≤ 0x0B) := by
  revert c; decide

/-- The decoder on a command word of a defined opcode all of whose words have arrived (R70). -/
theorem decode_complete {o : Opc} {w : Word} {more : List Word} (ho : Opc.ofByte (opcField w) = some o)
    (hn : operandCount o w more ≤ more.length) :
    decode (w :: more) =
      match decodeFields o w (more.take (operandCount o w more)) with
      | .error e => .rejected e w (more.drop (operandCount o w more))
      | .ok i => .command i (more.drop (operandCount o w more)) := by
  cases h : decodeFields o w (more.take (operandCount o w more)) <;>
    simp only [decode, ho, h, if_neg (Nat.not_lt.mpr hn)]

/-- The decoder waits while words of a defined opcode are missing (R70). -/
theorem decode_incomplete {o : Opc} {w : Word} {more : List Word} (ho : Opc.ofByte (opcField w) = some o)
    (hn : more.length < operandCount o w more) : decode (w :: more) = .incomplete := by
  simp only [decode, ho, if_pos hn]

/-- The decoder rejects an undefined opcode at the command word (R78(a)). -/
theorem decode_undefined {w : Word} (more : List Word) (ho : Opc.ofByte (opcField w) = none) :
    decode (w :: more) = .rejected .undefinedOpcode w more := by
  simp only [decode, ho]

/-- Words after the operands do not change how many operands there are, once enough have arrived (R80). -/
theorem operandCount_append {o : Opc} {w : Word} {ops : List Word} (rest : List Word)
    (h : operandCount o w ops ≤ ops.length) : operandCount o w (ops ++ rest) = operandCount o w ops := by
  unfold operandCount at *
  cases hf : o.format <;> simp only [hf] at h ⊢
  cases ops with
  | nil => simp only [List.length_nil] at h; omega
  | cons n ops => rfl

/-! ## The command word of each command (R77) -/

@[simp] theorem word_nop : Instr.nop.word = 0x00000000#32 := by
  simp only [Instr.word, Instr.opc, Opc.byte, Instr.fields]; decide
@[simp] theorem word_curAlloc (x : Word) : (Instr.curAlloc x).word = 0x01000000#32 := by
  simp only [Instr.word, Instr.opc, Opc.byte, Instr.fields]; decide
@[simp] theorem word_curSeek (x : Word) : (Instr.curSeek x).word = 0x02000000#32 := by
  simp only [Instr.word, Instr.opc, Opc.byte, Instr.fields]; decide
@[simp] theorem word_curTell : Instr.curTell.word = 0x03000000#32 := by
  simp only [Instr.word, Instr.opc, Opc.byte, Instr.fields]; decide
@[simp] theorem word_curWrite (n : Word) (data : List Word) : (Instr.curWrite n data).word = 0x04000000#32 := by
  simp only [Instr.word, Instr.opc, Opc.byte, Instr.fields]; decide
@[simp] theorem word_packA8 (rgba : Word) : (Instr.packA8 rgba).word = 0x10000000#32 := by
  simp only [Instr.word, Instr.opc, Opc.byte, Instr.fields, fmtBits, Fmt.code]; decide
@[simp] theorem word_packBgr565 (rgba : Word) : (Instr.packBgr565 rgba).word = 0x10200000#32 := by
  simp only [Instr.word, Instr.opc, Opc.byte, Instr.fields, fmtBits, Fmt.code]; decide
@[simp] theorem word_packBgra8888 (rgba : Word) : (Instr.packBgra8888 rgba).word = 0x10400000#32 := by
  simp only [Instr.word, Instr.opc, Opc.byte, Instr.fields, fmtBits, Fmt.code]; decide
@[simp] theorem word_packAbgr6666 (rgba : Word) : (Instr.packAbgr6666 rgba).word = 0x10600000#32 := by
  simp only [Instr.word, Instr.opc, Opc.byte, Instr.fields, fmtBits, Fmt.code]; decide
@[simp] theorem word_packAbgr8888 (rgba : Word) : (Instr.packAbgr8888 rgba).word = 0x10800000#32 := by
  simp only [Instr.word, Instr.opc, Opc.byte, Instr.fields, fmtBits, Fmt.code]; decide
@[simp] theorem word_rlePush (p : Word) : (Instr.rlePush p).word = 0x21000000#32 := by
  simp only [Instr.word, Instr.opc, Opc.byte, Instr.fields]; decide
@[simp] theorem word_rleFlush : Instr.rleFlush.word = 0x22000000#32 := by
  simp only [Instr.word, Instr.opc, Opc.byte, Instr.fields]; decide
@[simp] theorem word_rowPush (p : Word) : (Instr.rowPush p).word = 0x31000000#32 := by
  simp only [Instr.word, Instr.opc, Opc.byte, Instr.fields]; decide
@[simp] theorem word_rowEnd : Instr.rowEnd.word = 0x32000000#32 := by
  simp only [Instr.word, Instr.opc, Opc.byte, Instr.fields]; decide
@[simp] theorem word_pix (rgba : Word) : (Instr.pix rgba).word = 0x41000000#32 := by
  simp only [Instr.word, Instr.opc, Opc.byte, Instr.fields]; decide
@[simp] theorem word_eor : Instr.eor.word = 0x42000000#32 := by
  simp only [Instr.word, Instr.opc, Opc.byte, Instr.fields]; decide
@[simp] theorem word_eoi : Instr.eoi.word = 0x43000000#32 := by
  simp only [Instr.word, Instr.opc, Opc.byte, Instr.fields]; decide
theorem word_curSlice (start stop : Option Word) :
    (Instr.curSlice start stop).word = 0x05000000#32 ||| (bitAt stop.isSome 1 ||| bitAt start.isSome 0) := by
  simp only [Instr.word, Instr.opc, Opc.byte, Instr.fields]
  rw [show BitVec.setWidth 32 (0x05 : BitVec 8) <<< 24 = 0x05000000#32 by decide]
theorem word_rleInit (b : BitVec 2) : (Instr.rleInit b).word = 0x20000000#32 ||| (b.setWidth 32 <<< 16) := by
  simp only [Instr.word, Instr.opc, Opc.byte, Instr.fields]
  rw [show BitVec.setWidth 32 (0x20 : BitVec 8) <<< 24 = 0x20000000#32 by decide]
theorem word_rowInit (b : BitVec 2) (base : Word) :
    (Instr.rowInit b base).word = 0x30000000#32 ||| (b.setWidth 32 <<< 16) := by
  simp only [Instr.word, Instr.opc, Opc.byte, Instr.fields]
  rw [show BitVec.setWidth 32 (0x30 : BitVec 8) <<< 24 = 0x30000000#32 by decide]
theorem word_cfg (f : Fmt) (rle : Bool) (base : Word) :
    (Instr.cfg f rle base).word = 0x40000000#32 ||| (fmtBits f ||| bitAt rle 20) := by
  simp only [Instr.word, Instr.opc, Opc.byte, Instr.fields]
  rw [show BitVec.setWidth 32 (0x40 : BitVec 8) <<< 24 = 0x40000000#32 by decide]
theorem word_rd (r : Reg) : (Instr.rd r).word = 0x50000000#32 ||| r.index.setWidth 32 := by
  simp only [Instr.word, Instr.opc, Opc.byte, Instr.fields]
  rw [show BitVec.setWidth 32 (0x50 : BitVec 8) <<< 24 = 0x50000000#32 by decide]

end Sys2Proof
end

