-- ==== Sys2Proof/Laws/Driver.lean ====
section
/-! SUPPORT. What the host's operations on the port can do: the block as an encode takes it, and the response to one command. -/

namespace Sys2Proof.Driver

open Sys2Proof.Machine

/-- An encode starts "from a state with STATUS.FAULT = 0" (spec/45_host.md R229). -/
@[simp] theorem prepare_fault (s : State) : (prepare s).fault = false := by
  unfold prepare
  split
  · rfl
  · rename_i h; exact Bool.eq_false_iff.mpr fun hf => h (.inl hf)

/-- An encode starts with no command in progress. -/
@[simp] theorem prepare_part (s : State) : (prepare s).part = [] := by
  unfold prepare
  split
  · rfl
  · rename_i h; exact Classical.byContradiction fun hp => h (.inr hp)

/-- A running block that holds no part-received command is taken as it is. -/
theorem prepare_running {s : State} (hf : s.fault = false) (hp : s.part = []) : prepare s = s := by
  simp [prepare, hf, hp]

/-- The response to a command is what it adds after the words still waiting (spec/20_memory.md R63). -/
theorem issue_eq_ok {i : Instr} {s t : State} {h : Word} {ws : List Word}
    (hr : runEvents ((encode i).map PortEvent.commandWord) s = some t) (ht : t.rsp = s.rsp ++ h :: ws)
    (hk : kindField h = 0) : issue i s = .ok (ws, { t with rsp := [] }) := by
  simp [issue, hr, ht, hk]

end Sys2Proof.Driver
end

