-- ==== Sys2Proof/Laws/Memory.lean ====
section
/-! SUPPORT. The laws of BUF: every operation keeps the canonical form, a read after a write gives the byte written, and a write
leaves every other byte alone. -/

namespace Sys2Proof.Machine

theorem Memory.risingFrom_mono {lo hi : Nat} (h : lo ≤ hi) :
    ∀ {m : Memory}, Memory.risingFrom hi m = true → Memory.risingFrom lo m = true
  | [], _ => rfl
  | (k, v) :: m, hm => by
    simp only [Memory.risingFrom, Bool.and_eq_true, decide_eq_true_eq] at hm ⊢
    exact ⟨⟨by omega, hm.1.2⟩, hm.2⟩

theorem Memory.risingFrom_cons {lo a : Nat} {v : Byte} {m : Memory} (h : lo ≤ a)
    (hm : Memory.risingFrom (a + 1) m = true) : Memory.risingFrom lo (Memory.cons a v m) = true := by
  unfold Memory.cons
  split
  · exact Memory.risingFrom_mono (by omega) hm
  · rename_i hv
    simp [Memory.risingFrom, h, hm, hv]

theorem Memory.risingFrom_write {v : Byte} :
    ∀ {m : Memory} {lo a : Nat}, lo ≤ a → Memory.risingFrom lo m = true → Memory.risingFrom lo (Memory.write m a v) = true
  | [], _, _, h, _ => Memory.risingFrom_cons h rfl
  | (k, x) :: m, lo, a, h, hm => by
    have hk := hm
    simp only [Memory.risingFrom, Bool.and_eq_true, decide_eq_true_eq] at hk
    simp only [Memory.write]
    split
    · refine Memory.risingFrom_cons h ?_
      simp only [Memory.risingFrom, Bool.and_eq_true, decide_eq_true_eq]
      exact ⟨⟨by omega, hk.1.2⟩, hk.2⟩
    · split
      · rename_i _ e; subst e
        exact Memory.risingFrom_cons h hk.2
      · have := Memory.risingFrom_write (v := v) (m := m) (lo := k + 1) (a := a) (by omega) hk.2
        simp only [Memory.risingFrom, Bool.and_eq_true, decide_eq_true_eq]
        exact ⟨hk.1, this⟩

@[simp] theorem Memory.wf_nil : Memory.wf [] = true := rfl

theorem Memory.wf_write {m : Memory} (a : Nat) (v : Byte) (h : Memory.wf m = true) :
    Memory.wf (Memory.write m a v) = true :=
  Memory.risingFrom_write (Nat.zero_le a) h

/-- Every write of a byte sequence keeps the canonical form. -/
theorem Memory.wf_writeAll : ∀ {m : Memory} (a : Nat) (bs : List Byte), Memory.wf m = true →
    Memory.wf (Memory.writeAll m a bs) = true
  | _, _, [], h => h
  | _, a, b :: bs, h => Memory.wf_writeAll (a + 1) bs (Memory.wf_write a b h)

theorem Memory.read_below : ∀ {m : Memory} {lo a : Nat}, Memory.risingFrom lo m = true → a < lo →
    Memory.read m a = Memory.unlisted
  | [], _, _, _, _ => rfl
  | (k, v) :: m, lo, a, hm, h => by
    simp only [Memory.risingFrom, Bool.and_eq_true, decide_eq_true_eq] at hm
    simp only [Memory.read]
    rw [if_neg (by omega)]
    exact Memory.read_below hm.2 (by omega)

theorem Memory.read_cons {a : Nat} {v : Byte} {m : Memory} (hm : Memory.risingFrom (a + 1) m = true) (b : Nat) :
    Memory.read (Memory.cons a v m) b = if b = a then v else Memory.read m b := by
  unfold Memory.cons
  split
  · rename_i hv
    split
    · rename_i e; subst e
      rw [Memory.read_below hm (Nat.lt_succ_self _), hv]
    · rfl
  · simp only [Memory.read, eq_comm]

/-- A byte written reads back, and every other byte reads as before. -/
theorem Memory.read_write {v : Byte} : ∀ {m : Memory} {lo : Nat} (a b : Nat), Memory.risingFrom lo m = true →
    Memory.read (Memory.write m a v) b = if b = a then v else Memory.read m b
  | [], _, a, b, _ => Memory.read_cons rfl b
  | (k, x) :: m, lo, a, b, hm => by
    simp only [Memory.risingFrom, Bool.and_eq_true, decide_eq_true_eq] at hm
    simp only [Memory.write]
    split
    · refine Memory.read_cons ?_ b
      simp only [Memory.risingFrom, Bool.and_eq_true, decide_eq_true_eq]
      exact ⟨⟨by omega, hm.1.2⟩, hm.2⟩
    · split
      · rename_i _ e; subst e
        rw [Memory.read_cons hm.2 b]
        simp only [Memory.read, eq_comm (a := a) (b := b)]
        split <;> rfl
      · simp only [Memory.read, Memory.read_write a b hm.2]
        split
        · rw [if_neg (by omega)]
        · rfl

/-- After a byte sequence is written at `a`, its k-th byte reads at `a + k`, and every other byte reads as before. -/
theorem Memory.read_writeAll : ∀ {m : Memory} (a : Nat) (bs : List Byte) (b : Nat), Memory.wf m = true →
    Memory.read (Memory.writeAll m a bs) b = if a ≤ b ∧ b < a + bs.length then bs.getD (b - a) 0 else Memory.read m b
  | _, a, [], b, _ => by
    rw [if_neg (by simp only [List.length_nil]; omega)]
    rfl
  | m, a, x :: bs, b, h => by
    rw [show Memory.writeAll m a (x :: bs) = Memory.writeAll (Memory.write m a x) (a + 1) bs from rfl,
      Memory.read_writeAll (a + 1) bs b (Memory.wf_write a x h), Memory.read_write a b h]
    simp only [List.length_cons]
    by_cases e : b = a
    · subst e
      simp
    · by_cases hb : a + 1 ≤ b ∧ b < a + 1 + bs.length
      · rw [if_pos hb, if_pos (by omega), show b - a = (b - (a + 1)) + 1 by omega, List.getD_cons_succ]
      · rw [if_neg hb, if_neg e, if_neg (by omega)]

theorem Memory.read_writeAll_outside {m : Memory} (h : Memory.wf m = true) {a b : Nat} {bs : List Byte}
    (hb : b < a ∨ a + bs.length ≤ b) : Memory.read (Memory.writeAll m a bs) b = Memory.read m b := by
  rw [Memory.read_writeAll a bs b h, if_neg (by omega)]

theorem Memory.read_writeAll_inside {m : Memory} (h : Memory.wf m = true) {a k : Nat} {bs : List Byte}
    (hk : k < bs.length) : Memory.read (Memory.writeAll m a bs) (a + k) = bs.getD k 0 := by
  rw [Memory.read_writeAll a bs (a + k) h, if_pos (by omega), Nat.add_sub_cancel_left]

theorem Memory.mem_cons {a : Nat} {v : Byte} {m : Memory} {c : Host.Cell} (h : c ∈ Memory.cons a v m) :
    c.1 = a ∨ c ∈ m := by
  unfold Memory.cons at h
  split at h
  · exact .inr h
  · rcases List.mem_cons.mp h with rfl | h
    · exact .inl rfl
    · exact .inr h

theorem Memory.mem_write {v : Byte} : ∀ {m : Memory} {a : Nat} {c : Host.Cell}, c ∈ Memory.write m a v → c.1 = a ∨ c ∈ m
  | [], _, _, h => Memory.mem_cons h
  | (k, x) :: m, a, c, h => by
    simp only [Memory.write] at h
    split at h
    · exact Memory.mem_cons h
    · split at h
      · exact (Memory.mem_cons h).imp_right (List.mem_cons_of_mem _)
      · rcases List.mem_cons.mp h with rfl | h
        · exact .inr List.mem_cons_self
        · exact (Memory.mem_write h).imp_right (List.mem_cons_of_mem _)

/-- A write lists no offset beyond those it writes. -/
theorem Memory.mem_writeAll : ∀ {m : Memory} {a : Nat} {bs : List Byte} {c : Host.Cell}, c ∈ Memory.writeAll m a bs →
    c.1 < a + bs.length ∨ c ∈ m
  | _, _, [], _, h => .inr h
  | m, a, b :: bs, c, h => by
    rcases Memory.mem_writeAll (m := Memory.write m a b) (a := a + 1) (bs := bs) h with h | h
    · exact .inl (by simp only [List.length_cons]; omega)
    · rcases Memory.mem_write h with h | h
      · exact .inl (by simp only [List.length_cons]; omega)
      · exact .inr h

theorem Memory.ext_from : ∀ {m n : Memory} {lo : Nat}, Memory.risingFrom lo m = true → Memory.risingFrom lo n = true →
    (∀ a, Memory.read m a = Memory.read n a) → m = n
  | [], [], _, _, _, _ => rfl
  | [], (k, v) :: n, _, _, hn, h => by
    simp only [Memory.risingFrom, Bool.and_eq_true, decide_eq_true_eq] at hn
    exact absurd (by simpa [Memory.read] using (h k).symm) hn.1.2
  | (k, v) :: m, [], _, hm, _, h => by
    simp only [Memory.risingFrom, Bool.and_eq_true, decide_eq_true_eq] at hm
    exact absurd (by simpa [Memory.read] using h k) hm.1.2
  | (k, v) :: m, (j, w) :: n, lo, hm, hn, h => by
    have hm' := hm
    have hn' := hn
    simp only [Memory.risingFrom, Bool.and_eq_true, decide_eq_true_eq] at hm' hn'
    have hkj : k = j := by
      rcases Nat.lt_trichotomy k j with c | c | c
      · have := h k
        rw [Memory.read_below (lo := j) (m := (j, w) :: n)
          (by simp [Memory.risingFrom, hn'.1.2, hn'.2]) c] at this
        exact absurd (by simpa [Memory.read] using this) hm'.1.2
      · exact c
      · have := h j
        rw [Memory.read_below (lo := k) (m := (k, v) :: m)
          (by simp [Memory.risingFrom, hm'.1.2, hm'.2]) c] at this
        exact absurd (by simpa [Memory.read] using this.symm) hn'.1.2
    subst hkj
    have hv : v = w := by simpa [Memory.read] using h k
    subst hv
    congr 1
    refine Memory.ext_from hm'.2 hn'.2 fun a => ?_
    by_cases e : k = a
    · subst e
      rw [Memory.read_below hm'.2 (Nat.lt_succ_self _), Memory.read_below hn'.2 (Nat.lt_succ_self _)]
    · simpa [Memory.read, e] using h a

/-- The form is canonical: two memories that read alike are equal. -/
theorem Memory.ext_of_wf {m n : Memory} (hm : Memory.wf m = true) (hn : Memory.wf n = true)
    (h : ∀ a, Memory.read m a = Memory.read n a) : m = n :=
  Memory.ext_from hm hn h

end Sys2Proof.Machine
end

