-- ==== Sys2Proof/Laws/State.lean ====
section
/-! SUPPORT. What each update of State leaves in each field, true by rfl, so that no later proof unfolds an update. -/

namespace Sys2Proof.Machine

/-! ## respond -/

@[simp] theorem State.respond_fault (s : State) (ws : List Word) : (s.respond ws).fault = s.fault := rfl
@[simp] theorem State.respond_ca (s : State) (ws : List Word) : (s.respond ws).ca = s.ca := rfl
@[simp] theorem State.respond_rleCfg (s : State) (ws : List Word) : (s.respond ws).rleCfg = s.rleCfg := rfl
@[simp] theorem State.respond_rowCfg (s : State) (ws : List Word) : (s.respond ws).rowCfg = s.rowCfg := rfl
@[simp] theorem State.respond_encCfg (s : State) (ws : List Word) : (s.respond ws).encCfg = s.encCfg := rfl
@[simp] theorem State.respond_cause (s : State) (ws : List Word) : (s.respond ws).cause = s.cause := rfl
@[simp] theorem State.respond_finfo (s : State) (ws : List Word) : (s.respond ws).finfo = s.finfo := rfl
@[simp] theorem State.respond_cap (s : State) (ws : List Word) : (s.respond ws).cap = s.cap := rfl
@[simp] theorem State.respond_pos (s : State) (ws : List Word) : (s.respond ws).pos = s.pos := rfl
@[simp] theorem State.respond_extent (s : State) (ws : List Word) : (s.respond ws).extent = s.extent := rfl
@[simp] theorem State.respond_buf (s : State) (ws : List Word) : (s.respond ws).buf = s.buf := rfl
@[simp] theorem State.respond_encFmt (s : State) (ws : List Word) : (s.respond ws).encFmt = s.encFmt := rfl
@[simp] theorem State.respond_encRle (s : State) (ws : List Word) : (s.respond ws).encRle = s.encRle := rfl
@[simp] theorem State.respond_rleMode (s : State) (ws : List Word) : (s.respond ws).rleMode = s.rleMode := rfl
@[simp] theorem State.respond_rlePend (s : State) (ws : List Word) : (s.respond ws).rlePend = s.rlePend := rfl
@[simp] theorem State.respond_rleCnt (s : State) (ws : List Word) : (s.respond ws).rleCnt = s.rleCnt := rfl
@[simp] theorem State.respond_rleBpm1 (s : State) (ws : List Word) : (s.respond ws).rleBpm1 = s.rleBpm1 := rfl
@[simp] theorem State.respond_rleLast (s : State) (ws : List Word) : (s.respond ws).rleLast = s.rleLast := rfl
@[simp] theorem State.respond_rawBuf (s : State) (ws : List Word) : (s.respond ws).rawBuf = s.rawBuf := rfl
@[simp] theorem State.respond_rowBase (s : State) (ws : List Word) : (s.respond ws).rowBase = s.rowBase := rfl
@[simp] theorem State.respond_rowLastv (s : State) (ws : List Word) : (s.respond ws).rowLastv = s.rowLastv := rfl
@[simp] theorem State.respond_rowBpm1 (s : State) (ws : List Word) : (s.respond ws).rowBpm1 = s.rowBpm1 := rfl
@[simp] theorem State.respond_rowLast (s : State) (ws : List Word) : (s.respond ws).rowLast = s.rowLast := rfl
@[simp] theorem State.respond_part (s : State) (ws : List Word) : (s.respond ws).part = s.part := rfl
@[simp] theorem State.respond_rsp (s : State) (ws : List Word) : (s.respond ws).rsp = s.rsp ++ ws := rfl
@[simp] theorem State.respond_input (s : State) (ws : List Word) : (s.respond ws).input = s.input := rfl

/-! ## takeFault -/

@[simp] theorem State.takeFault_fault (s : State) (w : Word) (t : Trap) : (s.takeFault w t).fault = true := rfl
@[simp] theorem State.takeFault_ca (s : State) (w : Word) (t : Trap) : (s.takeFault w t).ca = s.ca := rfl
@[simp] theorem State.takeFault_rleCfg (s : State) (w : Word) (t : Trap) : (s.takeFault w t).rleCfg = s.rleCfg := rfl
@[simp] theorem State.takeFault_rowCfg (s : State) (w : Word) (t : Trap) : (s.takeFault w t).rowCfg = s.rowCfg := rfl
@[simp] theorem State.takeFault_encCfg (s : State) (w : Word) (t : Trap) : (s.takeFault w t).encCfg = s.encCfg := rfl
@[simp] theorem State.takeFault_cause (s : State) (w : Word) (t : Trap) : (s.takeFault w t).cause = t.cause := rfl
@[simp] theorem State.takeFault_finfo (s : State) (w : Word) (t : Trap) : (s.takeFault w t).finfo = t.info := rfl
@[simp] theorem State.takeFault_cap (s : State) (w : Word) (t : Trap) : (s.takeFault w t).cap = s.cap := rfl
@[simp] theorem State.takeFault_pos (s : State) (w : Word) (t : Trap) : (s.takeFault w t).pos = s.pos := rfl
@[simp] theorem State.takeFault_extent (s : State) (w : Word) (t : Trap) : (s.takeFault w t).extent = s.extent := rfl
@[simp] theorem State.takeFault_buf (s : State) (w : Word) (t : Trap) : (s.takeFault w t).buf = s.buf := rfl
@[simp] theorem State.takeFault_encFmt (s : State) (w : Word) (t : Trap) : (s.takeFault w t).encFmt = s.encFmt := rfl
@[simp] theorem State.takeFault_encRle (s : State) (w : Word) (t : Trap) : (s.takeFault w t).encRle = s.encRle := rfl
@[simp] theorem State.takeFault_rleMode (s : State) (w : Word) (t : Trap) : (s.takeFault w t).rleMode = s.rleMode := rfl
@[simp] theorem State.takeFault_rlePend (s : State) (w : Word) (t : Trap) : (s.takeFault w t).rlePend = s.rlePend := rfl
@[simp] theorem State.takeFault_rleCnt (s : State) (w : Word) (t : Trap) : (s.takeFault w t).rleCnt = s.rleCnt := rfl
@[simp] theorem State.takeFault_rleBpm1 (s : State) (w : Word) (t : Trap) : (s.takeFault w t).rleBpm1 = s.rleBpm1 := rfl
@[simp] theorem State.takeFault_rleLast (s : State) (w : Word) (t : Trap) : (s.takeFault w t).rleLast = s.rleLast := rfl
@[simp] theorem State.takeFault_rawBuf (s : State) (w : Word) (t : Trap) : (s.takeFault w t).rawBuf = s.rawBuf := rfl
@[simp] theorem State.takeFault_rowBase (s : State) (w : Word) (t : Trap) : (s.takeFault w t).rowBase = s.rowBase := rfl
@[simp] theorem State.takeFault_rowLastv (s : State) (w : Word) (t : Trap) : (s.takeFault w t).rowLastv = s.rowLastv := rfl
@[simp] theorem State.takeFault_rowBpm1 (s : State) (w : Word) (t : Trap) : (s.takeFault w t).rowBpm1 = s.rowBpm1 := rfl
@[simp] theorem State.takeFault_rowLast (s : State) (w : Word) (t : Trap) : (s.takeFault w t).rowLast = s.rowLast := rfl
@[simp] theorem State.takeFault_part (s : State) (w : Word) (t : Trap) : (s.takeFault w t).part = s.part := rfl
@[simp] theorem State.takeFault_rsp (s : State) (w : Word) (t : Trap) : (s.takeFault w t).rsp = s.rsp ++ [faultHeader w, t.cause.code.setWidth 32, t.info] := rfl
@[simp] theorem State.takeFault_input (s : State) (w : Word) (t : Trap) : (s.takeFault w t).input = s.input := rfl

/-! ## moveTo -/

@[simp] theorem State.moveTo_fault (s : State) (p : Nat) : (s.moveTo p).fault = s.fault := rfl
@[simp] theorem State.moveTo_ca (s : State) (p : Nat) : (s.moveTo p).ca = s.ca := rfl
@[simp] theorem State.moveTo_rleCfg (s : State) (p : Nat) : (s.moveTo p).rleCfg = s.rleCfg := rfl
@[simp] theorem State.moveTo_rowCfg (s : State) (p : Nat) : (s.moveTo p).rowCfg = s.rowCfg := rfl
@[simp] theorem State.moveTo_encCfg (s : State) (p : Nat) : (s.moveTo p).encCfg = s.encCfg := rfl
@[simp] theorem State.moveTo_cause (s : State) (p : Nat) : (s.moveTo p).cause = s.cause := rfl
@[simp] theorem State.moveTo_finfo (s : State) (p : Nat) : (s.moveTo p).finfo = s.finfo := rfl
@[simp] theorem State.moveTo_cap (s : State) (p : Nat) : (s.moveTo p).cap = s.cap := rfl
@[simp] theorem State.moveTo_pos (s : State) (p : Nat) : (s.moveTo p).pos = BitVec.ofNat 32 p := rfl
@[simp] theorem State.moveTo_extent (s : State) (p : Nat) : (s.moveTo p).extent = BitVec.ofNat 32 (max s.extent.toNat p) := rfl
@[simp] theorem State.moveTo_buf (s : State) (p : Nat) : (s.moveTo p).buf = s.buf := rfl
@[simp] theorem State.moveTo_encFmt (s : State) (p : Nat) : (s.moveTo p).encFmt = s.encFmt := rfl
@[simp] theorem State.moveTo_encRle (s : State) (p : Nat) : (s.moveTo p).encRle = s.encRle := rfl
@[simp] theorem State.moveTo_rleMode (s : State) (p : Nat) : (s.moveTo p).rleMode = s.rleMode := rfl
@[simp] theorem State.moveTo_rlePend (s : State) (p : Nat) : (s.moveTo p).rlePend = s.rlePend := rfl
@[simp] theorem State.moveTo_rleCnt (s : State) (p : Nat) : (s.moveTo p).rleCnt = s.rleCnt := rfl
@[simp] theorem State.moveTo_rleBpm1 (s : State) (p : Nat) : (s.moveTo p).rleBpm1 = s.rleBpm1 := rfl
@[simp] theorem State.moveTo_rleLast (s : State) (p : Nat) : (s.moveTo p).rleLast = s.rleLast := rfl
@[simp] theorem State.moveTo_rawBuf (s : State) (p : Nat) : (s.moveTo p).rawBuf = s.rawBuf := rfl
@[simp] theorem State.moveTo_rowBase (s : State) (p : Nat) : (s.moveTo p).rowBase = s.rowBase := rfl
@[simp] theorem State.moveTo_rowLastv (s : State) (p : Nat) : (s.moveTo p).rowLastv = s.rowLastv := rfl
@[simp] theorem State.moveTo_rowBpm1 (s : State) (p : Nat) : (s.moveTo p).rowBpm1 = s.rowBpm1 := rfl
@[simp] theorem State.moveTo_rowLast (s : State) (p : Nat) : (s.moveTo p).rowLast = s.rowLast := rfl
@[simp] theorem State.moveTo_part (s : State) (p : Nat) : (s.moveTo p).part = s.part := rfl
@[simp] theorem State.moveTo_rsp (s : State) (p : Nat) : (s.moveTo p).rsp = s.rsp := rfl
@[simp] theorem State.moveTo_input (s : State) (p : Nat) : (s.moveTo p).input = s.input := rfl

/-! ## writeAt -/

@[simp] theorem State.writeAt_fault (s : State) (bs : List Byte) (p : Nat) : (s.writeAt bs p).fault = s.fault := rfl
@[simp] theorem State.writeAt_ca (s : State) (bs : List Byte) (p : Nat) : (s.writeAt bs p).ca = s.ca := rfl
@[simp] theorem State.writeAt_rleCfg (s : State) (bs : List Byte) (p : Nat) : (s.writeAt bs p).rleCfg = s.rleCfg := rfl
@[simp] theorem State.writeAt_rowCfg (s : State) (bs : List Byte) (p : Nat) : (s.writeAt bs p).rowCfg = s.rowCfg := rfl
@[simp] theorem State.writeAt_encCfg (s : State) (bs : List Byte) (p : Nat) : (s.writeAt bs p).encCfg = s.encCfg := rfl
@[simp] theorem State.writeAt_cause (s : State) (bs : List Byte) (p : Nat) : (s.writeAt bs p).cause = s.cause := rfl
@[simp] theorem State.writeAt_finfo (s : State) (bs : List Byte) (p : Nat) : (s.writeAt bs p).finfo = s.finfo := rfl
@[simp] theorem State.writeAt_cap (s : State) (bs : List Byte) (p : Nat) : (s.writeAt bs p).cap = s.cap := rfl
@[simp] theorem State.writeAt_pos (s : State) (bs : List Byte) (p : Nat) : (s.writeAt bs p).pos = BitVec.ofNat 32 p := rfl
@[simp] theorem State.writeAt_extent (s : State) (bs : List Byte) (p : Nat) : (s.writeAt bs p).extent = BitVec.ofNat 32 (max s.extent.toNat p) := rfl
@[simp] theorem State.writeAt_buf (s : State) (bs : List Byte) (p : Nat) : (s.writeAt bs p).buf = Memory.writeAll s.buf s.pos.toNat bs := rfl
@[simp] theorem State.writeAt_encFmt (s : State) (bs : List Byte) (p : Nat) : (s.writeAt bs p).encFmt = s.encFmt := rfl
@[simp] theorem State.writeAt_encRle (s : State) (bs : List Byte) (p : Nat) : (s.writeAt bs p).encRle = s.encRle := rfl
@[simp] theorem State.writeAt_rleMode (s : State) (bs : List Byte) (p : Nat) : (s.writeAt bs p).rleMode = s.rleMode := rfl
@[simp] theorem State.writeAt_rlePend (s : State) (bs : List Byte) (p : Nat) : (s.writeAt bs p).rlePend = s.rlePend := rfl
@[simp] theorem State.writeAt_rleCnt (s : State) (bs : List Byte) (p : Nat) : (s.writeAt bs p).rleCnt = s.rleCnt := rfl
@[simp] theorem State.writeAt_rleBpm1 (s : State) (bs : List Byte) (p : Nat) : (s.writeAt bs p).rleBpm1 = s.rleBpm1 := rfl
@[simp] theorem State.writeAt_rleLast (s : State) (bs : List Byte) (p : Nat) : (s.writeAt bs p).rleLast = s.rleLast := rfl
@[simp] theorem State.writeAt_rawBuf (s : State) (bs : List Byte) (p : Nat) : (s.writeAt bs p).rawBuf = s.rawBuf := rfl
@[simp] theorem State.writeAt_rowBase (s : State) (bs : List Byte) (p : Nat) : (s.writeAt bs p).rowBase = s.rowBase := rfl
@[simp] theorem State.writeAt_rowLastv (s : State) (bs : List Byte) (p : Nat) : (s.writeAt bs p).rowLastv = s.rowLastv := rfl
@[simp] theorem State.writeAt_rowBpm1 (s : State) (bs : List Byte) (p : Nat) : (s.writeAt bs p).rowBpm1 = s.rowBpm1 := rfl
@[simp] theorem State.writeAt_rowLast (s : State) (bs : List Byte) (p : Nat) : (s.writeAt bs p).rowLast = s.rowLast := rfl
@[simp] theorem State.writeAt_part (s : State) (bs : List Byte) (p : Nat) : (s.writeAt bs p).part = s.part := rfl
@[simp] theorem State.writeAt_rsp (s : State) (bs : List Byte) (p : Nat) : (s.writeAt bs p).rsp = s.rsp := rfl
@[simp] theorem State.writeAt_input (s : State) (bs : List Byte) (p : Nat) : (s.writeAt bs p).input = s.input := rfl

/-! ## allocate -/

@[simp] theorem State.allocate_fault (s : State) (x : Word) : (s.allocate x).fault = s.fault := rfl
@[simp] theorem State.allocate_ca (s : State) (x : Word) : (s.allocate x).ca = true := rfl
@[simp] theorem State.allocate_rleCfg (s : State) (x : Word) : (s.allocate x).rleCfg = s.rleCfg := rfl
@[simp] theorem State.allocate_rowCfg (s : State) (x : Word) : (s.allocate x).rowCfg = s.rowCfg := rfl
@[simp] theorem State.allocate_encCfg (s : State) (x : Word) : (s.allocate x).encCfg = s.encCfg := rfl
@[simp] theorem State.allocate_cause (s : State) (x : Word) : (s.allocate x).cause = s.cause := rfl
@[simp] theorem State.allocate_finfo (s : State) (x : Word) : (s.allocate x).finfo = s.finfo := rfl
@[simp] theorem State.allocate_cap (s : State) (x : Word) : (s.allocate x).cap = x := rfl
@[simp] theorem State.allocate_pos (s : State) (x : Word) : (s.allocate x).pos = 0 := rfl
@[simp] theorem State.allocate_extent (s : State) (x : Word) : (s.allocate x).extent = 0 := rfl
@[simp] theorem State.allocate_buf (s : State) (x : Word) : (s.allocate x).buf = [] := rfl
@[simp] theorem State.allocate_encFmt (s : State) (x : Word) : (s.allocate x).encFmt = s.encFmt := rfl
@[simp] theorem State.allocate_encRle (s : State) (x : Word) : (s.allocate x).encRle = s.encRle := rfl
@[simp] theorem State.allocate_rleMode (s : State) (x : Word) : (s.allocate x).rleMode = s.rleMode := rfl
@[simp] theorem State.allocate_rlePend (s : State) (x : Word) : (s.allocate x).rlePend = s.rlePend := rfl
@[simp] theorem State.allocate_rleCnt (s : State) (x : Word) : (s.allocate x).rleCnt = s.rleCnt := rfl
@[simp] theorem State.allocate_rleBpm1 (s : State) (x : Word) : (s.allocate x).rleBpm1 = s.rleBpm1 := rfl
@[simp] theorem State.allocate_rleLast (s : State) (x : Word) : (s.allocate x).rleLast = s.rleLast := rfl
@[simp] theorem State.allocate_rawBuf (s : State) (x : Word) : (s.allocate x).rawBuf = s.rawBuf := rfl
@[simp] theorem State.allocate_rowBase (s : State) (x : Word) : (s.allocate x).rowBase = s.rowBase := rfl
@[simp] theorem State.allocate_rowLastv (s : State) (x : Word) : (s.allocate x).rowLastv = s.rowLastv := rfl
@[simp] theorem State.allocate_rowBpm1 (s : State) (x : Word) : (s.allocate x).rowBpm1 = s.rowBpm1 := rfl
@[simp] theorem State.allocate_rowLast (s : State) (x : Word) : (s.allocate x).rowLast = s.rowLast := rfl
@[simp] theorem State.allocate_part (s : State) (x : Word) : (s.allocate x).part = s.part := rfl
@[simp] theorem State.allocate_rsp (s : State) (x : Word) : (s.allocate x).rsp = s.rsp := rfl
@[simp] theorem State.allocate_input (s : State) (x : Word) : (s.allocate x).input = s.input := rfl

/-! ## rleIdle -/

@[simp] theorem State.rleIdle_fault (s : State) : s.rleIdle.fault = s.fault := rfl
@[simp] theorem State.rleIdle_ca (s : State) : s.rleIdle.ca = s.ca := rfl
@[simp] theorem State.rleIdle_rleCfg (s : State) : s.rleIdle.rleCfg = s.rleCfg := rfl
@[simp] theorem State.rleIdle_rowCfg (s : State) : s.rleIdle.rowCfg = s.rowCfg := rfl
@[simp] theorem State.rleIdle_encCfg (s : State) : s.rleIdle.encCfg = s.encCfg := rfl
@[simp] theorem State.rleIdle_cause (s : State) : s.rleIdle.cause = s.cause := rfl
@[simp] theorem State.rleIdle_finfo (s : State) : s.rleIdle.finfo = s.finfo := rfl
@[simp] theorem State.rleIdle_cap (s : State) : s.rleIdle.cap = s.cap := rfl
@[simp] theorem State.rleIdle_pos (s : State) : s.rleIdle.pos = s.pos := rfl
@[simp] theorem State.rleIdle_extent (s : State) : s.rleIdle.extent = s.extent := rfl
@[simp] theorem State.rleIdle_buf (s : State) : s.rleIdle.buf = s.buf := rfl
@[simp] theorem State.rleIdle_encFmt (s : State) : s.rleIdle.encFmt = s.encFmt := rfl
@[simp] theorem State.rleIdle_encRle (s : State) : s.rleIdle.encRle = s.encRle := rfl
@[simp] theorem State.rleIdle_rleMode (s : State) : s.rleIdle.rleMode = .raw := rfl
@[simp] theorem State.rleIdle_rlePend (s : State) : s.rleIdle.rlePend = false := rfl
@[simp] theorem State.rleIdle_rleCnt (s : State) : s.rleIdle.rleCnt = 0 := rfl
@[simp] theorem State.rleIdle_rleBpm1 (s : State) : s.rleIdle.rleBpm1 = s.rleBpm1 := rfl
@[simp] theorem State.rleIdle_rleLast (s : State) : s.rleIdle.rleLast = 0 := rfl
@[simp] theorem State.rleIdle_rawBuf (s : State) : s.rleIdle.rawBuf = [] := rfl
@[simp] theorem State.rleIdle_rowBase (s : State) : s.rleIdle.rowBase = s.rowBase := rfl
@[simp] theorem State.rleIdle_rowLastv (s : State) : s.rleIdle.rowLastv = s.rowLastv := rfl
@[simp] theorem State.rleIdle_rowBpm1 (s : State) : s.rleIdle.rowBpm1 = s.rowBpm1 := rfl
@[simp] theorem State.rleIdle_rowLast (s : State) : s.rleIdle.rowLast = s.rowLast := rfl
@[simp] theorem State.rleIdle_part (s : State) : s.rleIdle.part = s.part := rfl
@[simp] theorem State.rleIdle_rsp (s : State) : s.rleIdle.rsp = s.rsp := rfl
@[simp] theorem State.rleIdle_input (s : State) : s.rleIdle.input = s.input := rfl

/-! ## setPending -/

@[simp] theorem State.setPending_fault (s : State) (p : Pixel) : (s.setPending p).fault = s.fault := rfl
@[simp] theorem State.setPending_ca (s : State) (p : Pixel) : (s.setPending p).ca = s.ca := rfl
@[simp] theorem State.setPending_rleCfg (s : State) (p : Pixel) : (s.setPending p).rleCfg = s.rleCfg := rfl
@[simp] theorem State.setPending_rowCfg (s : State) (p : Pixel) : (s.setPending p).rowCfg = s.rowCfg := rfl
@[simp] theorem State.setPending_encCfg (s : State) (p : Pixel) : (s.setPending p).encCfg = s.encCfg := rfl
@[simp] theorem State.setPending_cause (s : State) (p : Pixel) : (s.setPending p).cause = s.cause := rfl
@[simp] theorem State.setPending_finfo (s : State) (p : Pixel) : (s.setPending p).finfo = s.finfo := rfl
@[simp] theorem State.setPending_cap (s : State) (p : Pixel) : (s.setPending p).cap = s.cap := rfl
@[simp] theorem State.setPending_pos (s : State) (p : Pixel) : (s.setPending p).pos = s.pos := rfl
@[simp] theorem State.setPending_extent (s : State) (p : Pixel) : (s.setPending p).extent = s.extent := rfl
@[simp] theorem State.setPending_buf (s : State) (p : Pixel) : (s.setPending p).buf = s.buf := rfl
@[simp] theorem State.setPending_encFmt (s : State) (p : Pixel) : (s.setPending p).encFmt = s.encFmt := rfl
@[simp] theorem State.setPending_encRle (s : State) (p : Pixel) : (s.setPending p).encRle = s.encRle := rfl
@[simp] theorem State.setPending_rleMode (s : State) (p : Pixel) : (s.setPending p).rleMode = s.rleMode := rfl
@[simp] theorem State.setPending_rlePend (s : State) (p : Pixel) : (s.setPending p).rlePend = true := rfl
@[simp] theorem State.setPending_rleCnt (s : State) (p : Pixel) : (s.setPending p).rleCnt = s.rleCnt := rfl
@[simp] theorem State.setPending_rleBpm1 (s : State) (p : Pixel) : (s.setPending p).rleBpm1 = s.rleBpm1 := rfl
@[simp] theorem State.setPending_rleLast (s : State) (p : Pixel) : (s.setPending p).rleLast = fromLE p := rfl
@[simp] theorem State.setPending_rawBuf (s : State) (p : Pixel) : (s.setPending p).rawBuf = s.rawBuf := rfl
@[simp] theorem State.setPending_rowBase (s : State) (p : Pixel) : (s.setPending p).rowBase = s.rowBase := rfl
@[simp] theorem State.setPending_rowLastv (s : State) (p : Pixel) : (s.setPending p).rowLastv = s.rowLastv := rfl
@[simp] theorem State.setPending_rowBpm1 (s : State) (p : Pixel) : (s.setPending p).rowBpm1 = s.rowBpm1 := rfl
@[simp] theorem State.setPending_rowLast (s : State) (p : Pixel) : (s.setPending p).rowLast = s.rowLast := rfl
@[simp] theorem State.setPending_part (s : State) (p : Pixel) : (s.setPending p).part = s.part := rfl
@[simp] theorem State.setPending_rsp (s : State) (p : Pixel) : (s.setPending p).rsp = s.rsp := rfl
@[simp] theorem State.setPending_input (s : State) (p : Pixel) : (s.setPending p).input = s.input := rfl

/-! ## commitPending -/

@[simp] theorem State.commitPending_fault (s : State) : s.commitPending.fault = s.fault := rfl
@[simp] theorem State.commitPending_ca (s : State) : s.commitPending.ca = s.ca := rfl
@[simp] theorem State.commitPending_rleCfg (s : State) : s.commitPending.rleCfg = s.rleCfg := rfl
@[simp] theorem State.commitPending_rowCfg (s : State) : s.commitPending.rowCfg = s.rowCfg := rfl
@[simp] theorem State.commitPending_encCfg (s : State) : s.commitPending.encCfg = s.encCfg := rfl
@[simp] theorem State.commitPending_cause (s : State) : s.commitPending.cause = s.cause := rfl
@[simp] theorem State.commitPending_finfo (s : State) : s.commitPending.finfo = s.finfo := rfl
@[simp] theorem State.commitPending_cap (s : State) : s.commitPending.cap = s.cap := rfl
@[simp] theorem State.commitPending_pos (s : State) : s.commitPending.pos = s.pos := rfl
@[simp] theorem State.commitPending_extent (s : State) : s.commitPending.extent = s.extent := rfl
@[simp] theorem State.commitPending_buf (s : State) : s.commitPending.buf = s.buf := rfl
@[simp] theorem State.commitPending_encFmt (s : State) : s.commitPending.encFmt = s.encFmt := rfl
@[simp] theorem State.commitPending_encRle (s : State) : s.commitPending.encRle = s.encRle := rfl
@[simp] theorem State.commitPending_rleMode (s : State) : s.commitPending.rleMode = s.rleMode := rfl
@[simp] theorem State.commitPending_rlePend (s : State) : s.commitPending.rlePend = s.rlePend := rfl
@[simp] theorem State.commitPending_rleCnt (s : State) : s.commitPending.rleCnt = s.rleCnt + 1 := rfl
@[simp] theorem State.commitPending_rleBpm1 (s : State) : s.commitPending.rleBpm1 = s.rleBpm1 := rfl
@[simp] theorem State.commitPending_rleLast (s : State) : s.commitPending.rleLast = s.rleLast := rfl
@[simp] theorem State.commitPending_rawBuf (s : State) : s.commitPending.rawBuf = s.rawBuf ++ [s.lastPixel] := rfl
@[simp] theorem State.commitPending_rowBase (s : State) : s.commitPending.rowBase = s.rowBase := rfl
@[simp] theorem State.commitPending_rowLastv (s : State) : s.commitPending.rowLastv = s.rowLastv := rfl
@[simp] theorem State.commitPending_rowBpm1 (s : State) : s.commitPending.rowBpm1 = s.rowBpm1 := rfl
@[simp] theorem State.commitPending_rowLast (s : State) : s.commitPending.rowLast = s.rowLast := rfl
@[simp] theorem State.commitPending_part (s : State) : s.commitPending.part = s.part := rfl
@[simp] theorem State.commitPending_rsp (s : State) : s.commitPending.rsp = s.rsp := rfl
@[simp] theorem State.commitPending_input (s : State) : s.commitPending.input = s.input := rfl

/-! ## rleSetup -/

@[simp] theorem State.rleSetup_fault (s : State) (b : BitVec 2) : (s.rleSetup b).fault = s.fault := rfl
@[simp] theorem State.rleSetup_ca (s : State) (b : BitVec 2) : (s.rleSetup b).ca = s.ca := rfl
@[simp] theorem State.rleSetup_rleCfg (s : State) (b : BitVec 2) : (s.rleSetup b).rleCfg = true := rfl
@[simp] theorem State.rleSetup_rowCfg (s : State) (b : BitVec 2) : (s.rleSetup b).rowCfg = s.rowCfg := rfl
@[simp] theorem State.rleSetup_encCfg (s : State) (b : BitVec 2) : (s.rleSetup b).encCfg = s.encCfg := rfl
@[simp] theorem State.rleSetup_cause (s : State) (b : BitVec 2) : (s.rleSetup b).cause = s.cause := rfl
@[simp] theorem State.rleSetup_finfo (s : State) (b : BitVec 2) : (s.rleSetup b).finfo = s.finfo := rfl
@[simp] theorem State.rleSetup_cap (s : State) (b : BitVec 2) : (s.rleSetup b).cap = s.cap := rfl
@[simp] theorem State.rleSetup_pos (s : State) (b : BitVec 2) : (s.rleSetup b).pos = s.pos := rfl
@[simp] theorem State.rleSetup_extent (s : State) (b : BitVec 2) : (s.rleSetup b).extent = s.extent := rfl
@[simp] theorem State.rleSetup_buf (s : State) (b : BitVec 2) : (s.rleSetup b).buf = s.buf := rfl
@[simp] theorem State.rleSetup_encFmt (s : State) (b : BitVec 2) : (s.rleSetup b).encFmt = s.encFmt := rfl
@[simp] theorem State.rleSetup_encRle (s : State) (b : BitVec 2) : (s.rleSetup b).encRle = s.encRle := rfl
@[simp] theorem State.rleSetup_rleMode (s : State) (b : BitVec 2) : (s.rleSetup b).rleMode = .raw := rfl
@[simp] theorem State.rleSetup_rlePend (s : State) (b : BitVec 2) : (s.rleSetup b).rlePend = false := rfl
@[simp] theorem State.rleSetup_rleCnt (s : State) (b : BitVec 2) : (s.rleSetup b).rleCnt = 0 := rfl
@[simp] theorem State.rleSetup_rleBpm1 (s : State) (b : BitVec 2) : (s.rleSetup b).rleBpm1 = b := rfl
@[simp] theorem State.rleSetup_rleLast (s : State) (b : BitVec 2) : (s.rleSetup b).rleLast = 0 := rfl
@[simp] theorem State.rleSetup_rawBuf (s : State) (b : BitVec 2) : (s.rleSetup b).rawBuf = [] := rfl
@[simp] theorem State.rleSetup_rowBase (s : State) (b : BitVec 2) : (s.rleSetup b).rowBase = s.rowBase := rfl
@[simp] theorem State.rleSetup_rowLastv (s : State) (b : BitVec 2) : (s.rleSetup b).rowLastv = s.rowLastv := rfl
@[simp] theorem State.rleSetup_rowBpm1 (s : State) (b : BitVec 2) : (s.rleSetup b).rowBpm1 = s.rowBpm1 := rfl
@[simp] theorem State.rleSetup_rowLast (s : State) (b : BitVec 2) : (s.rleSetup b).rowLast = s.rowLast := rfl
@[simp] theorem State.rleSetup_part (s : State) (b : BitVec 2) : (s.rleSetup b).part = s.part := rfl
@[simp] theorem State.rleSetup_rsp (s : State) (b : BitVec 2) : (s.rleSetup b).rsp = s.rsp := rfl
@[simp] theorem State.rleSetup_input (s : State) (b : BitVec 2) : (s.rleSetup b).input = s.input := rfl

/-! ## rowSetup -/

@[simp] theorem State.rowSetup_fault (s : State) (b : BitVec 2) (a : Word) : (s.rowSetup b a).fault = s.fault := rfl
@[simp] theorem State.rowSetup_ca (s : State) (b : BitVec 2) (a : Word) : (s.rowSetup b a).ca = s.ca := rfl
@[simp] theorem State.rowSetup_rleCfg (s : State) (b : BitVec 2) (a : Word) : (s.rowSetup b a).rleCfg = s.rleCfg := rfl
@[simp] theorem State.rowSetup_rowCfg (s : State) (b : BitVec 2) (a : Word) : (s.rowSetup b a).rowCfg = true := rfl
@[simp] theorem State.rowSetup_encCfg (s : State) (b : BitVec 2) (a : Word) : (s.rowSetup b a).encCfg = s.encCfg := rfl
@[simp] theorem State.rowSetup_cause (s : State) (b : BitVec 2) (a : Word) : (s.rowSetup b a).cause = s.cause := rfl
@[simp] theorem State.rowSetup_finfo (s : State) (b : BitVec 2) (a : Word) : (s.rowSetup b a).finfo = s.finfo := rfl
@[simp] theorem State.rowSetup_cap (s : State) (b : BitVec 2) (a : Word) : (s.rowSetup b a).cap = s.cap := rfl
@[simp] theorem State.rowSetup_pos (s : State) (b : BitVec 2) (a : Word) : (s.rowSetup b a).pos = s.pos := rfl
@[simp] theorem State.rowSetup_extent (s : State) (b : BitVec 2) (a : Word) : (s.rowSetup b a).extent = s.extent := rfl
@[simp] theorem State.rowSetup_buf (s : State) (b : BitVec 2) (a : Word) : (s.rowSetup b a).buf = s.buf := rfl
@[simp] theorem State.rowSetup_encFmt (s : State) (b : BitVec 2) (a : Word) : (s.rowSetup b a).encFmt = s.encFmt := rfl
@[simp] theorem State.rowSetup_encRle (s : State) (b : BitVec 2) (a : Word) : (s.rowSetup b a).encRle = s.encRle := rfl
@[simp] theorem State.rowSetup_rleMode (s : State) (b : BitVec 2) (a : Word) : (s.rowSetup b a).rleMode = s.rleMode := rfl
@[simp] theorem State.rowSetup_rlePend (s : State) (b : BitVec 2) (a : Word) : (s.rowSetup b a).rlePend = s.rlePend := rfl
@[simp] theorem State.rowSetup_rleCnt (s : State) (b : BitVec 2) (a : Word) : (s.rowSetup b a).rleCnt = s.rleCnt := rfl
@[simp] theorem State.rowSetup_rleBpm1 (s : State) (b : BitVec 2) (a : Word) : (s.rowSetup b a).rleBpm1 = s.rleBpm1 := rfl
@[simp] theorem State.rowSetup_rleLast (s : State) (b : BitVec 2) (a : Word) : (s.rowSetup b a).rleLast = s.rleLast := rfl
@[simp] theorem State.rowSetup_rawBuf (s : State) (b : BitVec 2) (a : Word) : (s.rowSetup b a).rawBuf = s.rawBuf := rfl
@[simp] theorem State.rowSetup_rowBase (s : State) (b : BitVec 2) (a : Word) : (s.rowSetup b a).rowBase = a := rfl
@[simp] theorem State.rowSetup_rowLastv (s : State) (b : BitVec 2) (a : Word) : (s.rowSetup b a).rowLastv = false := rfl
@[simp] theorem State.rowSetup_rowBpm1 (s : State) (b : BitVec 2) (a : Word) : (s.rowSetup b a).rowBpm1 = b := rfl
@[simp] theorem State.rowSetup_rowLast (s : State) (b : BitVec 2) (a : Word) : (s.rowSetup b a).rowLast = s.rowLast := rfl
@[simp] theorem State.rowSetup_part (s : State) (b : BitVec 2) (a : Word) : (s.rowSetup b a).part = s.part := rfl
@[simp] theorem State.rowSetup_rsp (s : State) (b : BitVec 2) (a : Word) : (s.rowSetup b a).rsp = s.rsp := rfl
@[simp] theorem State.rowSetup_input (s : State) (b : BitVec 2) (a : Word) : (s.rowSetup b a).input = s.input := rfl

/-! ## offerCommand -/

@[simp] theorem State.offerCommand_fault (s : State) (ws : List Word) : (s.offerCommand ws).fault = s.fault := rfl
@[simp] theorem State.offerCommand_ca (s : State) (ws : List Word) : (s.offerCommand ws).ca = s.ca := rfl
@[simp] theorem State.offerCommand_rleCfg (s : State) (ws : List Word) : (s.offerCommand ws).rleCfg = s.rleCfg := rfl
@[simp] theorem State.offerCommand_rowCfg (s : State) (ws : List Word) : (s.offerCommand ws).rowCfg = s.rowCfg := rfl
@[simp] theorem State.offerCommand_encCfg (s : State) (ws : List Word) : (s.offerCommand ws).encCfg = s.encCfg := rfl
@[simp] theorem State.offerCommand_cause (s : State) (ws : List Word) : (s.offerCommand ws).cause = s.cause := rfl
@[simp] theorem State.offerCommand_finfo (s : State) (ws : List Word) : (s.offerCommand ws).finfo = s.finfo := rfl
@[simp] theorem State.offerCommand_cap (s : State) (ws : List Word) : (s.offerCommand ws).cap = s.cap := rfl
@[simp] theorem State.offerCommand_pos (s : State) (ws : List Word) : (s.offerCommand ws).pos = s.pos := rfl
@[simp] theorem State.offerCommand_extent (s : State) (ws : List Word) : (s.offerCommand ws).extent = s.extent := rfl
@[simp] theorem State.offerCommand_buf (s : State) (ws : List Word) : (s.offerCommand ws).buf = s.buf := rfl
@[simp] theorem State.offerCommand_encFmt (s : State) (ws : List Word) : (s.offerCommand ws).encFmt = s.encFmt := rfl
@[simp] theorem State.offerCommand_encRle (s : State) (ws : List Word) : (s.offerCommand ws).encRle = s.encRle := rfl
@[simp] theorem State.offerCommand_rleMode (s : State) (ws : List Word) : (s.offerCommand ws).rleMode = s.rleMode := rfl
@[simp] theorem State.offerCommand_rlePend (s : State) (ws : List Word) : (s.offerCommand ws).rlePend = s.rlePend := rfl
@[simp] theorem State.offerCommand_rleCnt (s : State) (ws : List Word) : (s.offerCommand ws).rleCnt = s.rleCnt := rfl
@[simp] theorem State.offerCommand_rleBpm1 (s : State) (ws : List Word) : (s.offerCommand ws).rleBpm1 = s.rleBpm1 := rfl
@[simp] theorem State.offerCommand_rleLast (s : State) (ws : List Word) : (s.offerCommand ws).rleLast = s.rleLast := rfl
@[simp] theorem State.offerCommand_rawBuf (s : State) (ws : List Word) : (s.offerCommand ws).rawBuf = s.rawBuf := rfl
@[simp] theorem State.offerCommand_rowBase (s : State) (ws : List Word) : (s.offerCommand ws).rowBase = s.rowBase := rfl
@[simp] theorem State.offerCommand_rowLastv (s : State) (ws : List Word) : (s.offerCommand ws).rowLastv = s.rowLastv := rfl
@[simp] theorem State.offerCommand_rowBpm1 (s : State) (ws : List Word) : (s.offerCommand ws).rowBpm1 = s.rowBpm1 := rfl
@[simp] theorem State.offerCommand_rowLast (s : State) (ws : List Word) : (s.offerCommand ws).rowLast = s.rowLast := rfl
@[simp] theorem State.offerCommand_part (s : State) (ws : List Word) : (s.offerCommand ws).part = ws.dropLast := rfl
@[simp] theorem State.offerCommand_rsp (s : State) (ws : List Word) : (s.offerCommand ws).rsp = s.rsp := rfl
@[simp] theorem State.offerCommand_input (s : State) (ws : List Word) : (s.offerCommand ws).input = (ws.drop (ws.length - 1)).map PortEvent.commandWord := rfl

/-! ## reset -/

@[simp] theorem State.reset_fault : State.reset.fault = false := rfl
@[simp] theorem State.reset_ca : State.reset.ca = false := rfl
@[simp] theorem State.reset_rleCfg : State.reset.rleCfg = false := rfl
@[simp] theorem State.reset_rowCfg : State.reset.rowCfg = false := rfl
@[simp] theorem State.reset_encCfg : State.reset.encCfg = false := rfl
@[simp] theorem State.reset_cause : State.reset.cause = .none := rfl
@[simp] theorem State.reset_finfo : State.reset.finfo = 0 := rfl
@[simp] theorem State.reset_cap : State.reset.cap = 0 := rfl
@[simp] theorem State.reset_pos : State.reset.pos = 0 := rfl
@[simp] theorem State.reset_extent : State.reset.extent = 0 := rfl
@[simp] theorem State.reset_buf : State.reset.buf = [] := rfl
@[simp] theorem State.reset_encFmt : State.reset.encFmt = .a8 := rfl
@[simp] theorem State.reset_encRle : State.reset.encRle = false := rfl
@[simp] theorem State.reset_rleMode : State.reset.rleMode = .raw := rfl
@[simp] theorem State.reset_rlePend : State.reset.rlePend = false := rfl
@[simp] theorem State.reset_rleCnt : State.reset.rleCnt = 0 := rfl
@[simp] theorem State.reset_rleBpm1 : State.reset.rleBpm1 = 0 := rfl
@[simp] theorem State.reset_rleLast : State.reset.rleLast = 0 := rfl
@[simp] theorem State.reset_rawBuf : State.reset.rawBuf = [] := rfl
@[simp] theorem State.reset_rowBase : State.reset.rowBase = 0 := rfl
@[simp] theorem State.reset_rowLastv : State.reset.rowLastv = false := rfl
@[simp] theorem State.reset_rowBpm1 : State.reset.rowBpm1 = 0 := rfl
@[simp] theorem State.reset_rowLast : State.reset.rowLast = 0 := rfl
@[simp] theorem State.reset_part : State.reset.part = [] := rfl
@[simp] theorem State.reset_rsp : State.reset.rsp = [] := rfl
@[simp] theorem State.reset_input : State.reset.input = [] := rfl

@[simp] theorem State.afterReset_fault (s : State) : s.afterReset.fault = false := rfl
@[simp] theorem State.afterReset_ca (s : State) : s.afterReset.ca = false := rfl
@[simp] theorem State.afterReset_rleCfg (s : State) : s.afterReset.rleCfg = false := rfl
@[simp] theorem State.afterReset_rowCfg (s : State) : s.afterReset.rowCfg = false := rfl
@[simp] theorem State.afterReset_encCfg (s : State) : s.afterReset.encCfg = false := rfl
@[simp] theorem State.afterReset_cause (s : State) : s.afterReset.cause = .none := rfl
@[simp] theorem State.afterReset_finfo (s : State) : s.afterReset.finfo = 0 := rfl
@[simp] theorem State.afterReset_cap (s : State) : s.afterReset.cap = 0 := rfl
@[simp] theorem State.afterReset_pos (s : State) : s.afterReset.pos = 0 := rfl
@[simp] theorem State.afterReset_extent (s : State) : s.afterReset.extent = 0 := rfl
@[simp] theorem State.afterReset_buf (s : State) : s.afterReset.buf = [] := rfl
@[simp] theorem State.afterReset_encFmt (s : State) : s.afterReset.encFmt = .a8 := rfl
@[simp] theorem State.afterReset_encRle (s : State) : s.afterReset.encRle = false := rfl
@[simp] theorem State.afterReset_rleMode (s : State) : s.afterReset.rleMode = .raw := rfl
@[simp] theorem State.afterReset_rlePend (s : State) : s.afterReset.rlePend = false := rfl
@[simp] theorem State.afterReset_rleCnt (s : State) : s.afterReset.rleCnt = 0 := rfl
@[simp] theorem State.afterReset_rleBpm1 (s : State) : s.afterReset.rleBpm1 = 0 := rfl
@[simp] theorem State.afterReset_rleLast (s : State) : s.afterReset.rleLast = 0 := rfl
@[simp] theorem State.afterReset_rawBuf (s : State) : s.afterReset.rawBuf = [] := rfl
@[simp] theorem State.afterReset_rowBase (s : State) : s.afterReset.rowBase = 0 := rfl
@[simp] theorem State.afterReset_rowLastv (s : State) : s.afterReset.rowLastv = false := rfl
@[simp] theorem State.afterReset_rowBpm1 (s : State) : s.afterReset.rowBpm1 = 0 := rfl
@[simp] theorem State.afterReset_rowLast (s : State) : s.afterReset.rowLast = 0 := rfl
@[simp] theorem State.afterReset_part (s : State) : s.afterReset.part = [] := rfl
@[simp] theorem State.afterReset_rsp (s : State) : s.afterReset.rsp = [] := rfl
@[simp] theorem State.afterReset_input (s : State) : s.afterReset.input = s.input := rfl

end Sys2Proof.Machine
end

