-- ==== Sys2Proof/Laws/Ops.lean ====
section
/-! SUPPORT. What each shared operation can do, said once: byte order, responses and fault entry, the checks, Append, MemRead,
emission, the branches of RLE_PUSH and RLE_FLUSH, and the row unit. -/

namespace Sys2Proof.Machine

/-! ## Byte order -/

@[simp] theorem leBytes_length (w : Word) : (leBytes w).length = 4 := rfl

theorem bppOf_pos (b : BitVec 2) : 1 ≤ bppOf b := Nat.le_add_left 1 _

theorem bppOf_le (b : BitVec 2) : bppOf b ≤ 4 := by
  have := b.isLt
  unfold bppOf
  omega

@[simp] theorem bppOf_bpm1Of (f : Fmt) : bppOf (bpm1Of f) = f.bpp := by cases f <;> rfl

@[simp] theorem pixelOf_length (b : BitVec 2) (p : Word) : (pixelOf (bppOf b) p).length = bppOf b := by
  have := bppOf_le b
  simp only [pixelOf, List.length_take, leBytes_length]
  omega

theorem fromLE_lt : ∀ bs : List Byte, bs.length ≤ 4 → (fromLE bs).toNat < 2 ^ (8 * bs.length)
  | [], _ => by simp [fromLE]
  | b :: bs, h => by
    simp only [List.length_cons] at h ⊢
    have ih := fromLE_lt bs (by omega)
    have hb := b.isLt
    simp only [fromLE, BitVec.toNat_or, BitVec.toNat_setWidth, BitVec.toNat_shiftLeft]
    apply Nat.or_lt_two_pow
    · refine lt_of_le_of_lt (Nat.mod_le _ _) (lt_of_lt_of_le hb ?_)
      exact Nat.pow_le_pow_right (by omega) (by omega)
    · refine lt_of_le_of_lt (Nat.mod_le _ _) ?_
      rw [Nat.shiftLeft_eq, Nat.mul_add, Nat.mul_one, Nat.pow_add]
      omega

theorem extract_head (b : Byte) (x : Word) : (b.setWidth 32 ||| (x <<< 8)).extractLsb' 0 8 = b := by
  ext i hi
  have : i < 32 := by omega
  simp [hi, this]

theorem extract_tail (b : Byte) (x : Word) (k : Nat) (hk : k + 16 ≤ 32) :
    (b.setWidth 32 ||| (x <<< 8)).extractLsb' (k + 8) 8 = x.extractLsb' k 8 := by
  ext i hi
  have h1 : k + 8 + i < 32 := by omega
  have h2 : ¬ k + 8 + i < 8 := by omega
  have h3 : k + 8 + i - 8 = k + i := by omega
  have h4 : b.getLsbD (k + 8 + i) = false := BitVec.getLsbD_of_ge _ _ (by omega)
  simp [h1, h2, h3, h4, BitVec.getLsbD_eq_getElem (show k + i < 32 by omega)]

theorem leBytes_fromLE_cons (b : Byte) (bs : List Byte) (n : Nat) (hn : n ≤ 3) :
    (leBytes (fromLE (b :: bs))).take (n + 1) = b :: (leBytes (fromLE bs)).take n := by
  simp only [leBytes, fromLE, List.take_succ_cons, extract_head, List.cons.injEq, true_and]
  rw [extract_tail b _ 0 (by omega), extract_tail b _ 8 (by omega), extract_tail b _ 16 (by omega)]
  rw [show [(fromLE bs).extractLsb' 0 8, (fromLE bs).extractLsb' 8 8, (fromLE bs).extractLsb' 16 8,
    (fromLE bs).extractLsb' 24 8] = [(fromLE bs).extractLsb' 0 8, (fromLE bs).extractLsb' 8 8,
    (fromLE bs).extractLsb' 16 8] ++ [(fromLE bs).extractLsb' 24 8] from rfl, List.take_append_of_le_length hn]

/-- A packed pixel survives its trip through a register: `LE_bpp(fromLE(p)) = p` (R11). -/
theorem pixelOf_fromLE : ∀ {bpp : Nat} {p : Pixel}, p.length = bpp → bpp ≤ 4 → pixelOf bpp (fromLE p) = p
  | 0, [], _, _ => rfl
  | n + 1, b :: p, h, h4 => by
    have hp : p.length = n := by simpa using h
    rw [pixelOf, leBytes_fromLE_cons b p n (by omega)]
    exact congrArg (b :: ·) (pixelOf_fromLE hp (by omega))


theorem fromLE_fits {b : BitVec 2} {p : Pixel} (h : p.length = bppOf b) : (fromLE p).toNat < 2 ^ (8 * bppOf b) := by
  have := fromLE_lt p (by rw [h]; exact bppOf_le b)
  rwa [h] at this

/-- A register view cut to its unit's width fits in it (R31, R36). -/
theorem lowBytes_lt (b : BitVec 2) (w : Word) : (lowBytes (bppOf b) w).toNat < 2 ^ (8 * bppOf b) :=
  fromLE_fits (pixelOf_length b w)

/-- Cutting a word to a unit's width keeps the pixel it stands for. -/
@[simp] theorem pixelOf_lowBytes (b : BitVec 2) (w : Word) : pixelOf (bppOf b) (lowBytes (bppOf b) w) = pixelOf (bppOf b) w :=
  pixelOf_fromLE (pixelOf_length b w) (bppOf_le b)

/-- RD of RLE_LAST answers the encoder's last pixel. -/
theorem readReg_rleLast (s : State) : s.readReg .rleLast = fromLE s.lastPixel := rfl

/-- RD of ROW_LAST answers the row unit's last pixel. -/
theorem readReg_rowLast (s : State) : s.readReg .rowLast = fromLE s.rowLastPixel := rfl

theorem wordsOf_length : ∀ bs : List Byte, (wordsOf bs).length = wordsFor bs.length
  | b0 :: b1 :: b2 :: b3 :: bs => by
    simp only [wordsOf, List.length_cons, wordsOf_length bs, wordsFor]
    omega
  | [] => rfl
  | [_] => by simp [wordsOf, wordsFor]
  | [_, _] => by simp [wordsOf, wordsFor]
  | [_, _, _] => by simp [wordsOf, wordsFor]

/-- The words of a byte sequence carry exactly those bytes (R53). -/
theorem writeData_wordsOf : ∀ bs : List Byte, ((wordsOf bs).flatMap leBytes).take bs.length = bs
  | b0 :: b1 :: b2 :: b3 :: bs => by
    have h : leBytes (fromLE [b0, b1, b2, b3]) = [b0, b1, b2, b3] := pixelOf_fromLE (bpp := 4) rfl (Nat.le_refl 4)
    simp only [wordsOf, List.flatMap_cons, h, List.cons_append, List.nil_append, List.length_cons, List.take_succ_cons,
      writeData_wordsOf bs]
  | [] => rfl
  | [a] => by
    have h : (leBytes (fromLE [a])).take 1 = [a] := pixelOf_fromLE (bpp := 1) rfl (by omega)
    simpa [wordsOf] using h
  | [a, b] => by
    have h : (leBytes (fromLE [a, b])).take 2 = [a, b] := pixelOf_fromLE (bpp := 2) rfl (by omega)
    simpa [wordsOf] using h
  | [a, b, c] => by
    have h : (leBytes (fromLE [a, b, c])).take 3 = [a, b, c] := pixelOf_fromLE (bpp := 3) rfl (by omega)
    simpa [wordsOf] using h

theorem flatMap_leBytes_length : ∀ ws : List Word, (ws.flatMap leBytes).length = 4 * ws.length
  | [] => rfl
  | w :: ws => by
    rw [List.flatMap_cons, List.length_append, leBytes_length, flatMap_leBytes_length ws, List.length_cons]
    omega

/-- A CUR_WRITE as the port can carry it holds all of its N bytes (R74). -/
theorem writeData_length {n : Word} {data : List Word} (h : (Instr.curWrite n data).wellFormed = true) :
    (writeData n data).length = n.toNat := by
  simp only [Instr.wellFormed, beq_iff_eq, wordsFor] at h
  rw [writeData, List.length_take, flatMap_leBytes_length]
  omega

/-! ## Responses, fault entry and the checks -/

theorem finish_next {w : Word} {s t : State} {r : Except Trap State} (h : finish w s r = .next t) :
    (∃ u, r = .ok u ∧ t = u.respond [okHeader w]) ∨ ∃ tr, r = .error tr ∧ t = s.takeFault w tr := by
  cases r with
  | ok u => exact .inl ⟨u, rfl, by simpa [finish, eq_comm] using h⟩
  | error tr => exact .inr ⟨tr, rfl, by simpa [finish, eq_comm] using h⟩

theorem finishAdv_next {w : Word} {s t : State} {r : Except Trap State} (h : finishAdv w s r = .next t) :
    (∃ u, r = .ok u ∧ t = u.respond [okHeader w, u.pos - s.pos]) ∨ ∃ tr, r = .error tr ∧ t = s.takeFault w tr := by
  cases r with
  | ok u => exact .inl ⟨u, rfl, by simpa [finishAdv, eq_comm] using h⟩
  | error tr => exact .inr ⟨tr, rfl, by simpa [finishAdv, eq_comm] using h⟩

@[simp] theorem finish_ok (w : Word) (s u : State) : finish w s (.ok u) = .next (u.respond [okHeader w]) := rfl

@[simp] theorem finish_error (w : Word) (s : State) (tr : Trap) : finish w s (.error tr) = .next (s.takeFault w tr) := rfl

@[simp] theorem finishAdv_ok (w : Word) (s u : State) :
    finishAdv w s (.ok u) = .next (u.respond [okHeader w, u.pos - s.pos]) := rfl

@[simp] theorem finishAdv_error (w : Word) (s : State) (tr : Trap) :
    finishAdv w s (.error tr) = .next (s.takeFault w tr) := rfl

@[simp] theorem require_true (t : Trap) (b : Except Trap State) : require true t b = b := rfl

@[simp] theorem require_false (t : Trap) (b : Except Trap State) : require false t b = .error t := rfl

@[simp] theorem requireBit_true (w : Word) (b : Except Trap State) : requireBit true w b = b := rfl

@[simp] theorem requireBit_false (w : Word) (b : Except Trap State) :
    requireBit false w b = .error ⟨.notConfigured, w⟩ := rfl

theorem require_eq_ok {c : Bool} {t : Trap} {b : Except Trap State} {u : State} :
    require c t b = .ok u ↔ c = true ∧ b = .ok u := by
  cases c <;> simp

theorem requireBit_eq_ok {c : Bool} {w : Word} {b : Except Trap State} {u : State} :
    requireBit c w b = .ok u ↔ c = true ∧ b = .ok u := require_eq_ok

theorem map_eq_ok {r : Except Trap State} {f : State → State} {u : State} :
    r.map f = .ok u ↔ ∃ t, r = .ok t ∧ u = f t := by
  cases r <;> simp [Except.map, eq_comm]

/-! ## The cursor -/

/-- Append completes exactly when the bytes fit (R104). -/
theorem append_eq_ok {bs : List Byte} {s u : State} :
    append bs s = .ok u ↔
      s.pos.toNat + bs.length ≤ s.cap.toNat ∧ u = s.writeAt bs (s.pos.toNat + bs.length) := by
  unfold append
  split
  · simp; omega
  · simp only [Except.ok.injEq, eq_comm (a := u)]
    constructor
    · exact fun h => ⟨by omega, h⟩
    · exact fun h => h.2

theorem append_eq_error {bs : List Byte} {s : State} {t : Trap} :
    append bs s = .error t ↔
      s.cap.toNat < s.pos.toNat + bs.length ∧ t = ⟨.cursorBounds, saturate (s.pos.toNat + bs.length)⟩ := by
  unfold append
  split
  · simp only [Except.error.injEq, eq_comm (a := t)]
    exact ⟨fun h => ⟨by omega, h⟩, fun h => h.2⟩
  · simp; omega

theorem toNat_ofNat_of_le {n : Nat} {w : Word} (h : n ≤ w.toNat) : (BitVec.ofNat 32 n).toNat = n := by
  rw [BitVec.toNat_ofNat, Nat.mod_eq_of_lt (lt_of_le_of_lt h w.isLt)]

/-- MemRead inside CAP answers the bytes (R12, R28). -/
theorem memRead_eq_bytesAt {s : State} : ∀ {n a : Nat}, a + n ≤ s.cap.toNat → s.memRead a n = some (s.bytesAt a n)
  | 0, _, _ => rfl
  | n + 1, a, h => by
    have ih := memRead_eq_bytesAt (s := s) (n := n) (a := a + 1) (by omega)
    simp only [State.memRead, State.readByte, if_pos (show a < s.cap.toNat by omega), ih, State.bytesAt,
      List.range_succ_eq_map, List.map_cons, List.map_map, Option.map_some, Nat.add_zero, Option.some.injEq,
      List.cons.injEq, true_and]
    exact List.map_congr_left fun k _ => by simp [Nat.add_assoc, Nat.add_comm 1 k]

/-! ## The run-length encoder -/

/-- Emission: nothing for an empty section, else an append of the section (R121). -/
theorem emitSection_eq_ok {m : RleMode} {n : Nat} {bs : List Byte} {s u : State} (h : emitSection m n bs s = .ok u) :
    (n = 0 ∧ u = s) ∨ (n ≠ 0 ∧ append (sectionBytes m n bs) s = .ok u) := by
  unfold emitSection at h
  split at h
  · exact .inl ⟨by assumption, by simpa [eq_comm] using h⟩
  · exact .inr ⟨by assumption, h⟩

/-- Everything a pushed pixel can do (R124 to R127), by branch. -/
theorem rlePixel_eq_ok {p : Pixel} {s u : State} (h : rlePixel p s = .ok u) :
    (s.rleMode = .compress ∧ p = s.lastPixel ∧ (s.rleCnt + 1).toNat = maxCount ∧
      ∃ t, emitSection .compress maxCount s.lastPixel s = .ok t ∧ u = t.rleIdle) ∨
    (s.rleMode = .compress ∧ p = s.lastPixel ∧ (s.rleCnt + 1).toNat ≠ maxCount ∧ u = { s with rleCnt := s.rleCnt + 1 }) ∨
    (s.rleMode = .compress ∧ p ≠ s.lastPixel ∧
      ∃ t, emitSection .compress s.rleCnt.toNat s.lastPixel s = .ok t ∧ u = t.rleIdle.setPending p) ∨
    (s.rleMode = .raw ∧ s.rlePend = true ∧ p = s.lastPixel ∧
      ∃ t, emitSection .raw s.rleCnt.toNat s.rawBuf.flatten s = .ok t ∧
        u = { t with rawBuf := [], rleMode := .compress, rleCnt := 2, rlePend := false }) ∨
    (s.rleMode = .raw ∧ s.rlePend = false ∧ u = s.setPending p) ∨
    (s.rleMode = .raw ∧ s.rlePend = true ∧ p ≠ s.lastPixel ∧ s.commitPending.rleCnt.toNat = maxCount ∧
      ∃ t, emitSection .raw maxCount s.commitPending.rawBuf.flatten s.commitPending = .ok t ∧
        u = { t with rawBuf := [], rleCnt := 0 }.setPending p) ∨
    (s.rleMode = .raw ∧ s.rlePend = true ∧ p ≠ s.lastPixel ∧ s.commitPending.rleCnt.toNat ≠ maxCount ∧
      u = s.commitPending.setPending p) := by
  unfold rlePixel at h
  split at h
  · rename_i hm
    split at h
    · rename_i hp
      unfold rleContinue at h
      split at h
      · exact .inl ⟨hm, hp, by assumption, map_eq_ok.mp h⟩
      · exact .inr (.inl ⟨hm, hp, by assumption, by simpa [eq_comm] using h⟩)
    · rename_i hp
      exact .inr (.inr (.inl ⟨hm, hp, map_eq_ok.mp h⟩))
  · rename_i hm
    split at h
    · rename_i hp
      exact .inr (.inr (.inr (.inl ⟨hm, hp.1, hp.2, map_eq_ok.mp h⟩)))
    · rename_i hp
      unfold rleLiteral at h
      split at h
      · rename_i hq
        refine .inr (.inr (.inr (.inr (.inl ⟨hm, by simpa using hq, ?_⟩))))
        simpa [eq_comm] using h
      · rename_i hq
        have hq' : s.rlePend = true := by simpa using hq
        have hne : p ≠ s.lastPixel := fun e => hp ⟨hq', e⟩
        split at h
        · exact .inr (.inr (.inr (.inr (.inr (.inl ⟨hm, hq', hne, by assumption, map_eq_ok.mp h⟩)))))
        · refine .inr (.inr (.inr (.inr (.inr (.inr ⟨hm, hq', hne, by assumption, ?_⟩)))))
          simpa [eq_comm] using h

/-- Everything the end of a pixel stream can do (R128). -/
theorem rleFinish_eq_ok {s u : State} (h : rleFinish s = .ok u) :
    (s.rleMode = .compress ∧ ∃ t, emitSection .compress s.rleCnt.toNat s.lastPixel s = .ok t ∧ u = t.rleIdle) ∨
    (s.rleMode = .raw ∧ s.rlePend = false ∧
      ∃ t, emitSection .raw s.rleCnt.toNat s.rawBuf.flatten s = .ok t ∧ u = t.rleIdle) ∨
    (s.rleMode = .raw ∧ s.rlePend = true ∧
      ∃ t, emitSection .raw s.commitPending.rleCnt.toNat s.commitPending.rawBuf.flatten s.commitPending = .ok t ∧
        u = t.rleIdle) := by
  unfold rleFinish at h
  split at h
  · rename_i hm
    cases hp : s.rlePend with
    | false => exact .inr (.inl ⟨hm, rfl, by simpa [hp] using map_eq_ok.mp h⟩)
    | true => exact .inr (.inr ⟨hm, rfl, by simpa [hp] using map_eq_ok.mp h⟩)
  · rename_i hm
    exact .inl ⟨hm, map_eq_ok.mp h⟩

/-! ## The row unit -/

theorem rowPad_lt (base : Word) (stop : Nat) : rowPad base stop < 4 := by
  unfold rowPad
  omega

/-- The padding brings the end of the duplicate to a multiple of 4 from the base (R172). -/
theorem rowPad_aligns (base : Word) (stop : Nat) : ((stop + rowPad base stop : Nat) - (base.toNat : Int)) % 4 = 0 := by
  unfold rowPad
  omega

/-- ROW_PUSH's body completes exactly when its pixel fits (R171). -/
theorem rowPushBody_eq_ok {w p : Word} {s u : State} :
    rowPushBody w p s = .ok u ↔
      s.ca = true ∧ s.pos.toNat + bppOf s.rowBpm1 ≤ s.cap.toNat ∧
        u = { s.writeAt (pixelOf (bppOf s.rowBpm1) p) (s.pos.toNat + bppOf s.rowBpm1) with
              rowLast := fromLE (pixelOf (bppOf s.rowBpm1) p), rowLastv := true } := by
  unfold rowPushBody
  rw [requireBit_eq_ok, map_eq_ok]
  simp only [append_eq_ok, pixelOf_length]
  constructor
  · rintro ⟨h, t, ⟨h1, rfl⟩, rfl⟩
    exact ⟨h, h1, rfl⟩
  · rintro ⟨h, h1, rfl⟩
    exact ⟨h, _, ⟨h1, rfl⟩, rfl⟩

/-- ROW_END's body completes exactly when the row has a pixel and duplicate and padding fit (R172). -/
theorem rowEndBody_eq_ok {w : Word} {s u : State} :
    rowEndBody w s = .ok u ↔
      s.ca = true ∧ s.rowLastv = true ∧ s.rowStop ≤ s.cap.toNat ∧
        u = { s.writeAt s.rowLastPixel s.rowStop with rowLastv := false } := by
  unfold rowEndBody
  rw [requireBit_eq_ok, require_eq_ok]
  split
  · simp; omega
  · simp only [Except.ok.injEq, eq_comm (a := u)]
    constructor
    · exact fun h => ⟨h.1, h.2.1, by omega, h.2.2⟩
    · exact fun h => ⟨h.1, h.2.1, h.2.2.2⟩

end Sys2Proof.Machine
end

