-- ==== Sys2Proof/Laws/PerInstr.lean ====
section
/-! SUPPORT. One lemma per constructor of Instr: the command word carries the command's opcode, sets no reserved bit, and is
followed by as many words as the framing rule R80 asks for. -/

namespace Sys2Proof.Laws

/-- What every command's words satisfy (spec/30_encoding.md R71, R72, R80). -/
def Framed.Statement (i : Instr) : Prop :=
  opcField i.word = i.opc.byte ∧ i.word &&& i.opc.format.reserved = 0 ∧
    (i.wellFormed = true → i.operands.length = operandCount i.opc i.word i.operands)

theorem Framed.nop : Framed.Statement .nop :=
  ⟨by simp only [word_nop, Instr.opc, Opc.byte]; decide,
    by simp only [word_nop, Instr.opc, Opc.format, Format.reserved]; decide, fun _ => rfl⟩
theorem Framed.curAlloc (x : Word) : Framed.Statement (.curAlloc x) :=
  ⟨by simp only [word_curAlloc, Instr.opc, Opc.byte]; decide,
    by simp only [word_curAlloc, Instr.opc, Opc.format, Format.reserved]; decide, fun _ => rfl⟩
theorem Framed.curSeek (x : Word) : Framed.Statement (.curSeek x) :=
  ⟨by simp only [word_curSeek, Instr.opc, Opc.byte]; decide,
    by simp only [word_curSeek, Instr.opc, Opc.format, Format.reserved]; decide, fun _ => rfl⟩
theorem Framed.curTell : Framed.Statement .curTell :=
  ⟨by simp only [word_curTell, Instr.opc, Opc.byte]; decide,
    by simp only [word_curTell, Instr.opc, Opc.format, Format.reserved]; decide, fun _ => rfl⟩
theorem Framed.curWrite (n : Word) (data : List Word) : Framed.Statement (.curWrite n data) :=
  ⟨by simp only [word_curWrite, Instr.opc, Opc.byte]; decide,
    by simp only [word_curWrite, Instr.opc, Opc.format, Format.reserved]; decide, fun h => by
    simp only [Instr.wellFormed, beq_iff_eq] at h
    simp only [Instr.operands, Instr.opc, operandCount, Opc.format, List.length_cons, h]
    omega⟩
theorem Framed.curSlice (start stop : Option Word) : Framed.Statement (.curSlice start stop) := by
  have key : ∀ a b : Bool, opcField (0x05000000#32 ||| (bitAt b 1 ||| bitAt a 0)) = 0x05 ∧
      (0x05000000#32 ||| (bitAt b 1 ||| bitAt a 0)) &&& 0x00FFFFFC = 0 ∧
      (hfField (0x05000000#32 ||| (bitAt b 1 ||| bitAt a 0))).toNat +
        (htField (0x05000000#32 ||| (bitAt b 1 ||| bitAt a 0))).toNat = a.toNat + b.toNat := by decide
  unfold Framed.Statement
  simp only [word_curSlice, Instr.opc, operandCount, Opc.format]
  refine ⟨(key _ _).1, (key _ _).2.1, fun _ => ?_⟩
  rw [(key _ _).2.2]
  cases start <;> cases stop <;> rfl
theorem Framed.packA8 (rgba : Word) : Framed.Statement (.packA8 rgba) :=
  ⟨by simp only [word_packA8, Instr.opc, Opc.byte]; decide,
    by simp only [word_packA8, Instr.opc, Opc.format, Format.reserved]; decide, fun _ => rfl⟩
theorem Framed.packBgr565 (rgba : Word) : Framed.Statement (.packBgr565 rgba) :=
  ⟨by simp only [word_packBgr565, Instr.opc, Opc.byte]; decide,
    by simp only [word_packBgr565, Instr.opc, Opc.format, Format.reserved]; decide, fun _ => rfl⟩
theorem Framed.packBgra8888 (rgba : Word) : Framed.Statement (.packBgra8888 rgba) :=
  ⟨by simp only [word_packBgra8888, Instr.opc, Opc.byte]; decide,
    by simp only [word_packBgra8888, Instr.opc, Opc.format, Format.reserved]; decide, fun _ => rfl⟩
theorem Framed.packAbgr6666 (rgba : Word) : Framed.Statement (.packAbgr6666 rgba) :=
  ⟨by simp only [word_packAbgr6666, Instr.opc, Opc.byte]; decide,
    by simp only [word_packAbgr6666, Instr.opc, Opc.format, Format.reserved]; decide, fun _ => rfl⟩
theorem Framed.packAbgr8888 (rgba : Word) : Framed.Statement (.packAbgr8888 rgba) :=
  ⟨by simp only [word_packAbgr8888, Instr.opc, Opc.byte]; decide,
    by simp only [word_packAbgr8888, Instr.opc, Opc.format, Format.reserved]; decide, fun _ => rfl⟩
theorem Framed.rleInit (bpm1 : BitVec 2) : Framed.Statement (.rleInit bpm1) :=
  ⟨by revert bpm1; decide, by revert bpm1; decide, fun _ => rfl⟩
theorem Framed.rlePush (p : Word) : Framed.Statement (.rlePush p) :=
  ⟨by simp only [word_rlePush, Instr.opc, Opc.byte]; decide,
    by simp only [word_rlePush, Instr.opc, Opc.format, Format.reserved]; decide, fun _ => rfl⟩
theorem Framed.rleFlush : Framed.Statement .rleFlush :=
  ⟨by simp only [word_rleFlush, Instr.opc, Opc.byte]; decide,
    by simp only [word_rleFlush, Instr.opc, Opc.format, Format.reserved]; decide, fun _ => rfl⟩
theorem Framed.rowInit (bpm1 : BitVec 2) (base : Word) : Framed.Statement (.rowInit bpm1 base) := by
  have h : ∀ b : BitVec 2, opcField (Instr.rowInit b 0).word = Opc.rowInit.byte ∧
      (Instr.rowInit b 0).word &&& Opc.rowInit.format.reserved = 0 := by decide
  exact ⟨(h bpm1).1, (h bpm1).2, fun _ => rfl⟩
theorem Framed.rowPush (p : Word) : Framed.Statement (.rowPush p) :=
  ⟨by simp only [word_rowPush, Instr.opc, Opc.byte]; decide,
    by simp only [word_rowPush, Instr.opc, Opc.format, Format.reserved]; decide, fun _ => rfl⟩
theorem Framed.rowEnd : Framed.Statement .rowEnd :=
  ⟨by simp only [word_rowEnd, Instr.opc, Opc.byte]; decide,
    by simp only [word_rowEnd, Instr.opc, Opc.format, Format.reserved]; decide, fun _ => rfl⟩
theorem Framed.cfg (fmt : Fmt) (rle : Bool) (base : Word) : Framed.Statement (.cfg fmt rle base) := by
  unfold Framed.Statement
  simp only [word_cfg, Instr.opc, Opc.byte, Opc.format, Format.reserved]
  cases fmt <;> cases rle <;> exact ⟨by decide, by decide, fun _ => rfl⟩
theorem Framed.pix (rgba : Word) : Framed.Statement (.pix rgba) :=
  ⟨by simp only [word_pix, Instr.opc, Opc.byte]; decide,
    by simp only [word_pix, Instr.opc, Opc.format, Format.reserved]; decide, fun _ => rfl⟩
theorem Framed.eor : Framed.Statement .eor :=
  ⟨by simp only [word_eor, Instr.opc, Opc.byte]; decide,
    by simp only [word_eor, Instr.opc, Opc.format, Format.reserved]; decide, fun _ => rfl⟩
theorem Framed.eoi : Framed.Statement .eoi :=
  ⟨by simp only [word_eoi, Instr.opc, Opc.byte]; decide,
    by simp only [word_eoi, Instr.opc, Opc.format, Format.reserved]; decide, fun _ => rfl⟩
theorem Framed.rd (reg : Reg) : Framed.Statement (.rd reg) := by
  cases reg <;> exact ⟨rfl, rfl, fun _ => rfl⟩

end Sys2Proof.Laws
end

