-- ==== Sys2Proof/Machine/Assembly.lean ====
section
/-! DEFINITION. The assembler syntax (spec/30_encoding.md R82) and the pseudo-commands (R83): the spelling of each command, and
the words that a line of assembly stands for. -/

namespace Sys2Proof

/-- A number in decimal (R82: "Numbers are decimal or `0x` hexadecimal"). -/
def numeral (n : Nat) : String := toString n

/-- FMTNAME of R82. -/
def Fmt.spelling : Fmt → String
  | .a8 => "A8"
  | .bgr565 => "BGR565"
  | .bgra8888 => "BGRA8888"
  | .abgr6666 => "ABGR6666"
  | .abgr8888 => "ABGR8888"

/-- The register names of spec/10_state.md R21. -/
def Reg.spelling : Reg → String
  | .status => "STATUS"
  | .cause => "CAUSE"
  | .finfo => "FINFO"
  | .cap => "CAP"
  | .pos => "POS"
  | .extent => "EXTENT"
  | .enc => "ENC"
  | .rleState => "RLE_STATE"
  | .rleLast => "RLE_LAST"
  | .rowBase => "ROW_BASE"
  | .rowState => "ROW_STATE"
  | .rowLast => "ROW_LAST"

/-- The operands of `cur.slice`. -/
def sliceSpelling : Option Word → Option Word → String
  | none, none => ""
  | some a, none => " from=" ++ numeral a.toNat
  | none, some b => " to=" ++ numeral b.toNat
  | some a, some b => " " ++ numeral a.toNat ++ ", " ++ numeral b.toNat

/-- The N data bytes of `cur.write`, separated by commas. -/
def bytesSpelling (n : Word) (data : List Word) : String :=
  String.intercalate ", "
    ((((data.flatMap fun d => [d.extractLsb' 0 8, d.extractLsb' 8 8, d.extractLsb' 16 8, d.extractLsb' 24 8]).take
      n.toNat).map fun (b : Byte) => numeral b.toNat))

/-- One command as a line of assembly (R82). -/
def Instr.assembly : Instr → String
  | .nop => "nop"
  | .curAlloc x => "cur.alloc " ++ numeral x.toNat
  | .curSeek x => "cur.seek " ++ numeral x.toNat
  | .curTell => "cur.tell"
  | .curWrite n data => "cur.write " ++ bytesSpelling n data
  | .curSlice start stop => "cur.slice" ++ sliceSpelling start stop
  | .packA8 rgba => "pack.a8 " ++ numeral rgba.toNat
  | .packBgr565 rgba => "pack.bgr565 " ++ numeral rgba.toNat
  | .packBgra8888 rgba => "pack.bgra8888 " ++ numeral rgba.toNat
  | .packAbgr6666 rgba => "pack.abgr6666 " ++ numeral rgba.toNat
  | .packAbgr8888 rgba => "pack.abgr8888 " ++ numeral rgba.toNat
  | .rleInit bpm1 => "rle.init " ++ numeral (bpm1.toNat + 1)
  | .rlePush p => "rle.push " ++ numeral p.toNat
  | .rleFlush => "rle.flush"
  | .rowInit bpm1 base => "row.init " ++ numeral (bpm1.toNat + 1) ++ ", " ++ numeral base.toNat
  | .rowPush p => "row.push " ++ numeral p.toNat
  | .rowEnd => "row.end"
  | .cfg fmt rle base => "cfg " ++ fmt.spelling ++ (if rle then ", rle, " else ", raw, ") ++ numeral base.toNat
  | .pix rgba => "pix " ++ numeral rgba.toNat
  | .eor => "eor"
  | .eoi => "eoi"
  | .rd reg => "rd " ++ reg.spelling

/-! ## From a line to words -/

/-- The text before a comment: "Text after `;` is a comment". -/
def uncommented (line : List Char) : List Char := line.takeWhile (· ≠ ';')

/-- A token without the spaces around it. -/
def trimmed (cs : List Char) : List Char := ((cs.dropWhile (· = ' ')).reverse.dropWhile (· = ' ')).reverse

/-- Operands are "separated by commas"; the commas inside `rgba(...)` separate none. -/
def splitOperands : Nat → List Char → List Char → List (List Char)
  | _, word, [] => [trimmed word.reverse]
  | depth, word, c :: cs =>
    if c = ',' ∧ depth = 0 then trimmed word.reverse :: splitOperands 0 [] cs
    else splitOperands (if c = '(' then depth + 1 else if c = ')' then depth - 1 else depth) (c :: word) cs

/-- The operands after a mnemonic; none when nothing stands there. -/
def operandsOf (cs : List Char) : List (List Char) := if trimmed cs = [] then [] else splitOperands 0 [] cs

/-- The value of a digit, decimal or hexadecimal. -/
def digitValue (c : Char) : Option Nat :=
  if '0'.toNat ≤ c.toNat ∧ c.toNat ≤ '9'.toNat then some (c.toNat - '0'.toNat)
  else if 'a'.toNat ≤ c.toNat ∧ c.toNat ≤ 'f'.toNat then some (c.toNat - 'a'.toNat + 10)
  else if 'A'.toNat ≤ c.toNat ∧ c.toNat ≤ 'F'.toNat then some (c.toNat - 'A'.toNat + 10)
  else none

/-- The number of some digits in a base, after the digits before them. -/
def digitsValue (base : Nat) : Nat → List Char → Option Nat
  | n, [] => some n
  | n, c :: cs =>
    match digitValue c with
    | some d => if d < base then digitsValue base (n * base + d) cs else none
    | none => none

/-- A number, "decimal or `0x` hexadecimal". -/
def numberOf : List Char → Option Nat
  | [] => none
  | ['0', 'x'] => none
  | '0' :: 'x' :: cs => digitsValue 16 0 cs
  | cs => digitsValue 10 0 cs

/-- A number that fits in n bits. -/
def fieldOf (n : Nat) (cs : List Char) : Option (BitVec n) :=
  (numberOf cs).bind fun v => if v < 2 ^ n then some (BitVec.ofNat n v) else none

/-- `rgba(r, g, b, a)`, "the RGBA operand `r | g<<8 | b<<16 | a<<24`". -/
def rgbaWord (r g b a : Byte) : Word := a ++ b ++ g ++ r

/-- An operand word: a number, or an `rgba(...)`. -/
def wordOf : List Char → Option Word
  | 'r' :: 'g' :: 'b' :: 'a' :: '(' :: cs =>
    if cs.getLast? = some ')' then
      match (splitOperands 0 [] cs.dropLast).mapM (fieldOf 8) with
      | some [r, g, b, a] => some (rgbaWord r g b a)
      | _ => none
    else none
  | cs => fieldOf 32 cs

/-- BPM1 of an operand BPP, 1 to 4. -/
def bpm1OfOperand (cs : List Char) : Option (BitVec 2) :=
  (numberOf cs).bind fun v => if 1 ≤ v ∧ v ≤ 4 then some (BitVec.ofNat 2 (v - 1)) else none

/-- FMTNAME. -/
def fmtOfName (cs : List Char) : Option Fmt :=
  [Fmt.a8, .bgr565, .bgra8888, .abgr6666, .abgr8888].find? fun f => f.spelling.toList == cs

/-- The register of a NAME (spec/10_state.md R21). -/
def regOfName (cs : List Char) : Option Reg :=
  [Reg.status, .cause, .finfo, .cap, .pos, .extent, .enc, .rleState, .rleLast, .rowBase, .rowState, .rowLast].find?
    fun r => r.spelling.toList == cs

/-- `rle` or `raw`. -/
def modeOf (cs : List Char) : Option Bool :=
  if cs = "rle".toList then some true else if cs = "raw".toList then some false else none

/-- The operands of `cur.slice`, in its four spellings. -/
def sliceOf : List (List Char) → Option Instr
  | [] => some (.curSlice none none)
  | [cs] =>
    if cs.take 5 = "from=".toList then (wordOf (cs.drop 5)).map fun a => .curSlice (some a) none
    else if cs.take 3 = "to=".toList then (wordOf (cs.drop 3)).map fun b => .curSlice none (some b)
    else none
  | [a, b] => (wordOf a).bind fun x => (wordOf b).map fun y => .curSlice (some x) (some y)
  | _ => none

/-- A command without operands. -/
def bare (i : Instr) (ops : List (List Char)) : Option Instr := if ops = [] then some i else none

/-- A command with one operand word. -/
def unary (f : Word → Instr) : List (List Char) → Option Instr
  | [a] => (wordOf a).map f
  | _ => none

/-- A command with a mode and a base: the `cfg.*` pseudo-commands. -/
def moded (f : Bool → Word → Instr) : List (List Char) → Option Instr
  | [m, b] => (modeOf m).bind fun rle => (wordOf b).map (f rle)
  | _ => none

/-- The command that a mnemonic and its operands stand for (R82, R83). -/
def commandOf (name : List Char) (ops : List (List Char)) : Option Instr :=
  if name = "nop".toList then bare .nop ops
  else if name = "cur.alloc".toList then unary .curAlloc ops
  else if name = "cur.seek".toList then unary .curSeek ops
  else if name = "cur.rewind".toList then bare Driver.curRewind ops
  else if name = "cur.tell".toList then bare .curTell ops
  else if name = "cur.write".toList then (ops.mapM (fieldOf 8)).map Driver.curWriteBytes
  else if name = "cur.write.w32".toList then (ops.mapM wordOf).map Driver.curWriteW32
  else if name = "cur.slice".toList then sliceOf ops
  else if name = "pack.a8".toList then unary .packA8 ops
  else if name = "pack.bgr565".toList then unary .packBgr565 ops
  else if name = "pack.bgra8888".toList then unary .packBgra8888 ops
  else if name = "pack.abgr6666".toList then unary .packAbgr6666 ops
  else if name = "pack.abgr8888".toList then unary .packAbgr8888 ops
  else if name = "rle.init".toList then
    match ops with
    | [b] => (bpm1OfOperand b).map .rleInit
    | _ => none
  else if name = "rle.push".toList then unary .rlePush ops
  else if name = "rle.flush".toList then bare .rleFlush ops
  else if name = "row.init".toList then
    match ops with
    | [b, x] => (bpm1OfOperand b).bind fun v => (wordOf x).map (.rowInit v)
    | _ => none
  else if name = "row.push".toList then unary .rowPush ops
  else if name = "row.end".toList then bare .rowEnd ops
  else if name = "cfg".toList then
    match ops with
    | [f, m, x] => (fmtOfName f).bind fun fmt => (modeOf m).bind fun rle => (wordOf x).map (.cfg fmt rle)
    | _ => none
  else if name = "cfg.a8".toList then moded Driver.cfgA8 ops
  else if name = "cfg.rgb565".toList then moded Driver.cfgRgb565 ops
  else if name = "cfg.rgba6666".toList then moded Driver.cfgRgba6666 ops
  else if name = "cfg.rgba8888".toList then moded Driver.cfgRgba8888 ops
  else if name = "pix".toList then unary .pix ops
  else if name = "eor".toList then bare .eor ops
  else if name = "eoi".toList then bare .eoi ops
  else none

/-- The words of `rd NAME` and `rd INDEX`; an index that names no register is a word that faults (R78). -/
def rdWords : List (List Char) → Option (List Word)
  | [r] =>
    match regOfName r with
    | some reg => some (encode (.rd reg))
    | none => (fieldOf 8 r).map fun k => [0x50000000#32 ||| k.setWidth 32]
  | _ => none

/-- The words of a line that is no comment: the mnemonic up to the first space, then the operands. -/
def wordsOfCommand (cs : List Char) : Option (List Word) :=
  if cs.takeWhile (· ≠ ' ') = "rd".toList then rdWords (operandsOf (cs.dropWhile (· ≠ ' ')))
  else (commandOf (cs.takeWhile (· ≠ ' ')) (operandsOf (cs.dropWhile (· ≠ ' ')))).map encode

/-- The words that one line of assembly stands for: none of them for an empty line or a comment, no answer for a line that is
no command (R82). -/
def assembleLine (line : List Char) : Option (List Word) :=
  if trimmed (uncommented line) = [] then some [] else wordsOfCommand (trimmed (uncommented line))

end Sys2Proof
end

