-- ==== Sys2Proof/Tests/Slice0.lean ====
section
/-! SUPPORT. Tests of one step each, with the expected results of spec/95_test_vectors.md and of the examples in the command
rules; words written out from the opcode map of spec/30_encoding.md R77; and, for every obligation with hypotheses, values that
meet them. -/

open Sys2Proof Sys2Proof.Machine Sys2Proof.Driver

namespace Sys2Proof.Tests

/-! ## Helpers -/

/-- The state after a command, if the model does not stop. -/
def after (i : Instr) (s : State) : Option State :=
  match exec i s with
  | .next t => some t
  | .fault _ => none
  | .refused _ => none

/-- The response words a command sends. -/
def answer (i : Instr) (s : State) : Option (List Word) := (after i s).map (·.rsp)

/-- A register after a command. -/
def regAfter (i : Instr) (s : State) (r : Reg) : Option Word := (after i s).map (·.readReg r)

/-- The first n bytes of BUF after a command. -/
def bufAfter (i : Instr) (s : State) (n : Nat) : Option (List Byte) := (after i s).map fun t => t.bytesAt 0 n

/-- A state with a zeroed buffer of n bytes. -/
def buffer (n : Word) : State := State.reset.allocate n

/-- A buffer that holds 01 02 03 04, POS and EXTENT at 4 (the start of CU6 to CU9). -/
def written (n : Word) : State := { buffer n with buf := [(0, 1), (1, 2), (2, 3), (3, 4)], pos := 4, extent := 4 }

/-- A buffer and an empty encoder. -/
def encoder (n : Word) (bpm1 : BitVec 2) : State := (buffer n).rleSetup bpm1

/-- A raw-mode encoder at BPP 1 with pixels committed and one pending. -/
def literal (n : Word) (committed : List Pixel) (pending : Word) : State :=
  { encoder n 0 with rlePend := true, rleCnt := BitVec.ofNat 7 committed.length, rawBuf := committed, rleLast := pending }

/-- A compress-mode encoder at BPP 1 with a count and the run's pixel. -/
def running (n : Word) (cnt : BitVec 7) (p : Word) : State :=
  { encoder n 0 with rleMode := .compress, rleCnt := cnt, rleLast := p }

/-- A buffer and a row unit with no pixel yet. -/
def row (n : Word) (bpm1 : BitVec 2) (base : Word) : State := (buffer n).rowSetup bpm1 base

/-- A row unit at BPP 1 after one pixel 0xAA at offset 0. -/
def rowOne (n base : Word) : State :=
  { row n 0 base with buf := [(0, 0xAA)], pos := 1, extent := 1, rowLast := 0xAA, rowLastv := true }

/-- A configured front end. -/
def front (n : Word) (f : Fmt) (rle : Bool) (base : Word) : State :=
  { ((buffer n).rleSetup (bpm1Of f)).rowSetup (bpm1Of f) base with encFmt := f, encRle := rle, encCfg := true }

/-- 126 pixels of one byte, no two adjacent ones equal. -/
def alternating : List Pixel := (List.range 126).map fun k => [BitVec.ofNat 8 (1 + k % 2)]

/-! ## WellFormed and the decoder -/

theorem test_wellFormed_refuses_missing_data_word : (Instr.curWrite 5 [0x44332211]).wellFormed = false := by decide
theorem test_wellFormed_refuses_extra_data_word : (Instr.curWrite 0 [0]).wellFormed = false := by decide

theorem test_decode_nop : decode [0x00000000] = .command .nop [] := by decide
theorem test_decode_curAlloc : decode [0x01000000, 50] = .command (.curAlloc 50) [] := by decide
theorem test_decode_curSeek : decode [0x02000000, 0x28] = .command (.curSeek 0x28) [] := by decide
theorem test_decode_curTell : decode [0x03000000] = .command .curTell [] := by decide
theorem test_decode_curWrite :
    decode [0x04000000, 5, 0x44332211, 0xAABBCC55] = .command (.curWrite 5 [0x44332211, 0xAABBCC55]) [] := by decide
theorem test_decode_curSlice_default : decode [0x05000000] = .command (.curSlice none none) [] := by decide
theorem test_decode_curSlice_from : decode [0x05000001, 1] = .command (.curSlice (some 1) none) [] := by decide
theorem test_decode_curSlice_to : decode [0x05000002, 5] = .command (.curSlice none (some 5)) [] := by decide
theorem test_decode_curSlice_both : decode [0x05000003, 3, 2] = .command (.curSlice (some 3) (some 2)) [] := by decide
theorem test_decode_packA8 : decode [0x10000000, 0xFF0000FF] = .command (.packA8 0xFF0000FF) [] := by decide
theorem test_decode_packBgr565 : decode [0x10200000, 1] = .command (.packBgr565 1) [] := by decide
theorem test_decode_packBgra8888 : decode [0x10400000, 1] = .command (.packBgra8888 1) [] := by decide
theorem test_decode_packAbgr6666 : decode [0x10600000, 1] = .command (.packAbgr6666 1) [] := by decide
theorem test_decode_packAbgr8888 : decode [0x10800000, 1] = .command (.packAbgr8888 1) [] := by decide
theorem test_decode_rleInit : decode [0x20020000] = .command (.rleInit 2) [] := by decide
theorem test_decode_rlePush : decode [0x21000000, 7] = .command (.rlePush 7) [] := by decide
theorem test_decode_rleFlush : decode [0x22000000] = .command .rleFlush [] := by decide
theorem test_decode_rowInit : decode [0x30010000, 40] = .command (.rowInit 1 40) [] := by decide
theorem test_decode_rowPush : decode [0x31000000, 0x1111] = .command (.rowPush 0x1111) [] := by decide
theorem test_decode_rowEnd : decode [0x32000000] = .command .rowEnd [] := by decide
theorem test_decode_cfg : decode [0x40700000, 40] = .command (.cfg .abgr6666 true 40) [] := by decide
theorem test_decode_pix : decode [0x41000000, 0xFF000000] = .command (.pix 0xFF000000) [] := by decide
theorem test_decode_eor : decode [0x42000000] = .command .eor [] := by decide
theorem test_decode_eoi : decode [0x43000000] = .command .eoi [] := by decide
theorem test_decode_rd : decode [0x5000000B] = .command (.rd .rowLast) [] := by decide

theorem test_decode_waits : decode [0x04000000, 5, 0x44332211] = .incomplete := by decide
theorem test_decode_undefined_opcode : decode [0x06000000] = .rejected .undefinedOpcode 0x06000000 [] := by decide
theorem test_decode_reserved_bit : decode [0x05000004] = .rejected .reservedBit 0x05000004 [] := by decide
theorem test_decode_reserved_bit_first : decode [0x40A00001, 0] = .rejected .reservedBit 0x40A00001 [] := by decide
theorem test_decode_format_five : decode [0x10A00000, 0] = .rejected .unsupportedFormat 0x10A00000 [] := by decide
theorem test_decode_register_twelve : decode [0x5000000C] = .rejected .undefinedRegister 0x5000000C [] := by decide

theorem test_table_word_pack : decodeTableWord 32 0x10600000 = some (.packAbgr6666 0) := by decide
theorem test_table_word_write : decodeTableWord 32 0x04000000 = some (.curWrite 0 []) := by decide
theorem test_table_word_two : decodeTableWord 64 0x0000002801000000 = some (.curAlloc 40) := by decide
theorem test_assembly : (Instr.curSlice (some 3) (some 2)).assembly = "cur.slice 3, 2" := by decide
/-- CU4. -/
theorem test_assemble_write :
    assembleLine "cur.write 0x11, 0x22, 0x33, 0x44, 0x55 ; five bytes".toList =
      some [0x04000000, 5, 0x44332211, 0x00000055] := by decide
/-- Section 2.3. -/
theorem test_assemble_rgba : assembleLine "pack.abgr6666 rgba(255, 0, 0, 255)".toList = some [0x10600000, 0xFF0000FF] := by decide
/-- P2, step 2, and CU7. -/
theorem test_assemble_cfg_slice : assembleLine "cfg ABGR8888, rle, 40".toList = some [0x40900000, 40] ∧
    assembleLine "cfg.rgba8888 rle, 40".toList = some [0x40900000, 40] ∧
    assembleLine "cur.slice to=5".toList = some [0x05000002, 5] := by decide
/-- P6 and RD2. -/
theorem test_assemble_rd : assembleLine "rd RLE_STATE".toList = some [0x50000007] ∧
    assembleLine "rd 12".toList = some [0x5000000C] := by decide

/-! ## One step of each command -/

/-- RD4. -/
theorem test_nop : answer .nop State.reset = some [0x00000000] := by decide
/-- R101, at a capacity every CAP_MAX admits. -/
theorem test_curAlloc_answers : answer (.curAlloc 1) State.reset = some [0x01000000] := by decide
/-- CU10: a second allocation discards everything. -/
theorem test_curAlloc_discards : (after (.curAlloc 1) (written 8)).map (fun t => (t.cap, t.pos, t.extent, t.buf)) =
    some (1, 0, 0, []) := by decide
/-- CU3. -/
theorem test_curSeek_to_cap : regAfter (.curSeek 8) (buffer 8) .extent = some 8 := by decide
/-- CU3. -/
theorem test_curSeek_past_cap : answer (.curSeek 9) (buffer 8) = some [0x02010000, 3, 9] := by decide
/-- CU9. -/
theorem test_curTell : answer .curTell (written 8) = some [0x03000000, 4] := by decide
/-- CU1. -/
theorem test_curTell_unallocated : answer .curTell State.reset = some [0x03010000, 5, 0x03000000] := by decide
/-- CU4. -/
theorem test_curWrite : bufAfter (.curWrite 5 [0x44332211, 0xAABBCC55]) (buffer 8) 8 =
    some [0x11, 0x22, 0x33, 0x44, 0x55, 0, 0, 0] := by decide
/-- CU11. -/
theorem test_curWrite_past_cap :
    answer (.curWrite 3 [0x00030201]) { buffer 4 with pos := 2, extent := 2 } = some [0x04010000, 3, 5] := by decide
/-- CU8. -/
theorem test_curSlice_from : answer (.curSlice (some 1) none) (written 8) = some [0x05000000, 3, 0x00040302] := by decide
/-- CU7: TO is checked before FROM. -/
theorem test_curSlice_past_extent : answer (.curSlice none (some 5)) (written 8) = some [0x05010000, 4, 5] := by decide
/-- Section 2.3, rgba(18, 52, 86, 120). -/
theorem test_packA8 : answer (.packA8 0x78563412) State.reset = some [0x10000000, 0x12] := by decide
/-- Section 2.3. -/
theorem test_packBgr565 : answer (.packBgr565 0x78563412) State.reset = some [0x10000000, 0x11AA] := by decide
/-- Section 2.3, the last steps of the rescale. -/
theorem test_packBgr565_last_step : answer (.packBgr565 0xFCFAFCFA) State.reset = some [0x10000000, 0xF7DE] := by decide
/-- Section 2.3. -/
theorem test_packBgra8888 : answer (.packBgra8888 0x78563412) State.reset = some [0x10000000, 0x78123456] := by decide
/-- Section 2.3, alpha 1 is not transparent. -/
theorem test_packAbgr6666 : answer (.packAbgr6666 0x011E140A) State.reset = some [0x10000000, 0x000851C0] := by decide
/-- Section 2.3, alpha 0. -/
theorem test_packAbgr6666_transparent : answer (.packAbgr6666 0x00FFFFFF) State.reset = some [0x10000000, 0] := by decide
/-- Section 2.3. -/
theorem test_packAbgr8888 : answer (.packAbgr8888 0x78563412) State.reset = some [0x10000000, 0x12345678] := by decide
/-- R122: pixels not yet emitted are discarded. -/
theorem test_rleInit_discards : regAfter (.rleInit 2) (literal 8 [[1]] 2) .rleState = some 0x400 := by decide
/-- FE5: ENC_CFG is cleared. -/
theorem test_rleInit_clears_encCfg : regAfter (.rleInit 0) (front 8 .a8 true 0) .status = some 0x0E := by decide
/-- The example of R125. -/
theorem test_rlePush_ends_run : bufAfter (.rlePush 9) (running 8 3 7) 3 = some [0x83, 0x07, 0] := by decide
/-- The example of R126. -/
theorem test_rlePush_starts_run : bufAfter (.rlePush 3) (literal 8 [[1], [2]] 3) 4 = some [2, 1, 2, 0] := by decide
/-- The example of R128. -/
theorem test_rleFlush : bufAfter .rleFlush (literal 8 [] 0x0A) 3 = some [1, 0x0A, 0] := by decide
/-- Section 2.2, the third RLE fault. -/
theorem test_rleFlush_past_cap : answer .rleFlush (literal 1 [[1]] 2) = some [0x22010000, 3, 3] := by decide
/-- The example of R170. -/
theorem test_rowInit : regAfter (.rowInit 1 40) State.reset .rowState = some 2 := by decide
/-- RW6: the bits above 8*BPP are ignored. -/
theorem test_rowPush : regAfter (.rowPush 0xABCD1234) (row 16 1 0) .rowLast = some 0x1234 := by decide
/-- R36 and I12: after ROW_INIT with a smaller BPP the kept ROW_LAST reads 0 above 8*BPP. -/
theorem test_rowInit_narrows : regAfter (.rowInit 0 0) { row 8 3 0 with rowLast := 0x44332211 } .rowLast = some 0x11 := by decide
/-- RW11. -/
theorem test_rowPush_unconfigured : answer (.rowPush 5) (buffer 16) = some [0x31010000, 5, 0x31000000] := by decide
/-- RW5: an unaligned base. -/
theorem test_rowEnd : answer .rowEnd (rowOne 16 1) = some [0x32000000, 4] := by decide
/-- RW8: the duplicate fits and the padding does not. -/
theorem test_rowEnd_past_cap : answer .rowEnd (rowOne 2 0) = some [0x32010000, 3, 4] := by decide
/-- Section 2.5. -/
theorem test_cfg_enc : regAfter (.cfg .abgr8888 true 40) State.reset .enc = some 0x0C := by decide
/-- Section 2.5. -/
theorem test_cfg_rleState : regAfter (.cfg .abgr6666 false 40) State.reset .rleState = some 0x400 := by decide
/-- P4, step 4: red packs to 00 F8. -/
theorem test_pix : bufAfter (.pix 0xFF0000FF) (front 8 .bgr565 false 0) 3 = some [0x00, 0xF8, 0] := by decide
/-- P3, steps 4 and 5: with RLE the pixel is held back. -/
theorem test_pix_rle : answer (.pix 0xFF0000FF) (front 8 .bgr565 true 0) = some [0x41000000, 0] := by decide
/-- FE7. -/
theorem test_eor_empty_row : answer .eor (front 8 .a8 false 0) = some [0x42010000, 6, 0] := by decide
/-- FE6. -/
theorem test_eor_rle : answer .eor (front 8 .a8 true 0) = some [0x42000000, 0] := by decide
/-- P2, step 7. -/
theorem test_eoi : bufAfter .eoi { front 8 .abgr8888 true 0 with rleMode := .compress, rleCnt := 2, rleLast := 0xFF } 5 =
    some [0x82, 0xFF, 0, 0, 0] := by decide
/-- P4, step 13. -/
theorem test_eoi_raw : answer .eoi (front 8 .a8 false 0) = some [0x43000000, 0] := by decide
/-- Section 2.2, after the two pushes of RV2. -/
theorem test_rd_rleState : answer (.rd .rleState) (running 8 2 5) = some [0x50000000, 9] := by decide
/-- P1, the end state's STATUS. -/
theorem test_rd_status : answer (.rd .status) (front 8 .a8 false 0) = some [0x50000000, 0x1E] := by decide

/-! ## The ports -/

/-- The state after a step, if the model does not stop. -/
def stepped (s : State) : Option State :=
  match step s with
  | .next t => some t
  | .fault _ => none
  | .refused _ => none

/-- RD2. -/
theorem test_step_rejects : (stepped (State.reset.withFetchWord 32 0x5000000C)).map (·.rsp) = some [0x50010000, 1, 0x5000000C] := by
  decide
/-- CFG as the first command after reset. -/
theorem test_step_runs_cfg : (stepped (State.reset.withFetchWord 32 0x40300000)).map (·.rsp) = some [0x40000000] := by decide
/-- FE1. -/
theorem test_step_rejects_format :
    (stepped (State.reset.withFetchWord 32 0x40A00000)).map (·.rsp) = some [0x40010000, 2, 0x40A00000] := by decide
/-- R270: reset in the middle of a command's words. -/
theorem test_step_reset : (stepped { literal 8 [[1]] 2 with part := [0x01000000], rsp := [0], input := [.resetInput] }) =
    some State.reset := by decide

/-! ## The host protocol -/

/-- CU9, with words of an earlier RD still waiting, the second of which has bits 23:16 set (R63, R229). -/
theorem test_issue_reads_waiting_words_first :
    ((issue .curTell { written 8 with rsp := [0x50000000, 0x00010000] }).toOption.map fun r => (r.1, r.2.rsp)) =
      some ([4], []) := by decide
/-- R229 and R270: a faulted block, and one in the middle of a command, are reset before an encode; a running one is not. -/
theorem test_prepare : prepare { written 8 with fault := true, cause := .rowEmpty } = State.reset ∧
    prepare { written 8 with part := [0x02000000] } = State.reset ∧
    prepare { written 8 with rsp := [1] } = { written 8 with rsp := [1] } := by decide
/-- Section 2.8. -/
theorem test_capacity : capacity 2 2 2 false = 67 ∧ capacity 2 1 4 true = 50 ∧ capacity 2 2 3 false = 76 := by decide
/-- R212. -/
theorem test_rgba4444 : resolveFormat .rgba4444 true = none ∧ resolveFormat .rgba4444 false = none := by decide
/-- Section 2.4, the row-length table. -/
theorem test_rowBytes : rowBytes 2 3 = 12 ∧ rowBytes 4 1 = 8 ∧ rowBytes 1 4 = 8 := by decide
/-- S7 and C4: the 7x7 image's bounds. -/
theorem test_bounds : nonRleBound 7 7 1 = 88 ∧ rleBound 7 7 1 = 98 := by decide

/-! ## Values that meet the hypotheses of the obligations

CAP_MAX is opaque, so where an obligation speaks of X <= CAP_MAX the values are such as every CAP_MAX admits. No value is above
every CAP_MAX, so the clause about X > CAP_MAX has none here. -/

theorem cursor_reset : State.reset.CursorInv := ⟨by decide, by decide, by decide, by decide, by decide⟩
theorem cursor_written : (written 8).CursorInv := ⟨by decide, by decide, by decide, by decide, by decide⟩
theorem cursor_encoder : (encoder 8 0).CursorInv := ⟨by decide, by decide, by decide, by decide, by decide⟩
theorem cursor_literal : (literal 8 [[1]] 2).CursorInv := ⟨by decide, by decide, by decide, by decide, by decide⟩
theorem cursor_literal_full : (literal 128 alternating 1).CursorInv :=
  ⟨by decide, by decide, by decide, by decide, by decide⟩
theorem cursor_literal_tight : (literal 1 [[1]] 2).CursorInv := ⟨by decide, by decide, by decide, by decide, by decide⟩
theorem cursor_running : (running 2 2 7).CursorInv := ⟨by decide, by decide, by decide, by decide, by decide⟩
theorem cursor_running_full : (running 2 126 7).CursorInv := ⟨by decide, by decide, by decide, by decide, by decide⟩
theorem cursor_running_tight : (running 1 126 7).CursorInv := ⟨by decide, by decide, by decide, by decide, by decide⟩
theorem cursor_row : (row 4 3 0).CursorInv := ⟨by decide, by decide, by decide, by decide, by decide⟩
theorem cursor_rowOne : (rowOne 4 0).CursorInv := ⟨by decide, by decide, by decide, by decide, by decide⟩
theorem cursor_rowOne_tight : (rowOne 3 0).CursorInv := ⟨by decide, by decide, by decide, by decide, by decide⟩

theorem raw_literal : (literal 8 [[1]] 2).isRaw := ⟨rfl, rfl, by decide, rfl⟩
theorem raw_literal_tight : (literal 1 [[1]] 2).isRaw := ⟨rfl, rfl, by decide, rfl⟩
set_option maxRecDepth 4000 in
theorem raw_literal_full : (literal 128 alternating 1).isRaw := ⟨rfl, rfl, by decide, by decide⟩
theorem compress_running : (running 2 2 7).isCompress := ⟨rfl, rfl, by decide, by decide, rfl⟩
theorem compress_running_full : (running 2 126 7).isCompress := ⟨rfl, rfl, by decide, by decide, rfl⟩
theorem compress_running_tight : (running 1 126 7).isCompress := ⟨rfl, rfl, by decide, by decide, rfl⟩
theorem idle_encoder : (encoder 8 0).isIdle := ⟨rfl, rfl, rfl, rfl, rfl⟩

theorem rle_literal_tight : (literal 1 [[1]] 2).RleInv :=
  ⟨.inr (.inl raw_literal_tight), by decide, by decide, fun _ => by decide, fun h => (nomatch h)⟩
theorem rle_running_tight : (running 1 126 7).RleInv :=
  ⟨.inr (.inr compress_running_tight), by decide, by decide, fun h => (nomatch h.1), fun h => (nomatch h)⟩

/-- A front end over an empty encoder and an empty row. -/
theorem inv_front : (front 8 .bgra8888 false 0).Inv where
  cursor := ⟨by decide, by decide, by decide, by decide, by decide⟩
  rle := ⟨.inl ⟨rfl, rfl, rfl, rfl, rfl⟩, by decide, by decide, fun h => (nomatch h.2.1), fun h => (nomatch h)⟩
  row := ⟨fun h => (nomatch h), fun h => (nomatch h)⟩
  front := fun _ => ⟨rfl, rfl, rfl, rfl⟩
  faults := ⟨fun _ => ⟨rfl, rfl⟩, fun h => (nomatch h)⟩
  port := rfl

/-- A front end in the middle of a row. -/
def frontOne (n : Word) : State :=
  { front n .a8 false 0 with buf := [(0, 0xAA)], pos := 1, extent := 1, rowLast := 0xAA, rowLastv := true }

theorem inv_frontOne : (frontOne 4).Inv where
  cursor := ⟨by decide, by decide, by decide, by decide, by decide⟩
  rle := ⟨.inl ⟨rfl, rfl, rfl, rfl, rfl⟩, by decide, by decide, fun h => (nomatch h.2.1), fun h => (nomatch h)⟩
  row := ⟨fun _ => by decide, fun h => (nomatch h)⟩
  front := fun _ => ⟨rfl, rfl, rfl, rfl⟩
  faults := ⟨fun _ => ⟨rfl, rfl⟩, fun h => (nomatch h)⟩
  port := rfl

/-- A front end with a pixel pending in the encoder and room for exactly its section. -/
def frontPending : State := { front 2 .a8 true 0 with rlePend := true, rleLast := 7 }

theorem inv_frontPending : frontPending.Inv where
  cursor := ⟨by decide, by decide, by decide, by decide, by decide⟩
  rle := ⟨.inr (.inl ⟨rfl, rfl, by decide, rfl⟩), by decide, by decide, fun _ => by decide, fun h => (nomatch h)⟩
  row := ⟨fun h => (nomatch h), fun h => (nomatch h)⟩
  front := fun _ => ⟨rfl, rfl, rfl, rfl⟩
  faults := ⟨fun _ => ⟨rfl, rfl⟩, fun h => (nomatch h)⟩
  port := rfl

/-- Every CAP_MAX is a value of its register (R9). -/
theorem capMax_fits : (BitVec.ofNat 32 Config.capMax).toNat = Config.capMax :=
  Nat.mod_eq_of_lt (Nat.succ_lt_succ Config.capMaxLessOne.isLt)

theorem meets_DecodeOfEncode : (Instr.curWrite 5 [1, 2]).wellFormed = true := by decide
theorem meets_EncodeOfDecode : decode [0x05000003, 3, 2, 0x00000000] = .command (.curSlice (some 3) (some 2)) [0x00000000] := by
  decide

theorem meets_RejectedCommandWordsFault_opcode :
    let s := { State.reset with input := [.commandWord 0x06000000] }
    s.fault = false ∧ s.part ++ [0x06000000] = [0x06000000] ∧ 1 + ([] : List Word).length = commandLength 0x06000000 [] ∧
      (opcField 0x06000000#32).toNat = 0x06 := by decide
theorem meets_RejectedCommandWordsFault_reserved :
    let s := { State.reset with part := [0x05000006], input := [.commandWord 1] }
    s.fault = false ∧ s.part ++ [1] = [0x05000006, 1] ∧ 1 + ([1] : List Word).length = commandLength 0x05000006 [1] ∧
      Opc.ofByte (opcField 0x05000006#32) = some .curSlice ∧ 0x05000006#32 &&& Opc.curSlice.format.reserved ≠ 0 := by decide
theorem meets_RejectedCommandWordsFault_format :
    let s := { State.reset with part := [0x10A00000], input := [.commandWord 1] }
    s.fault = false ∧ s.part ++ [1] = [0x10A00000, 1] ∧ 1 + ([1] : List Word).length = commandLength 0x10A00000 [1] ∧
      opcField 0x10A00000#32 = 0x10 ∧ 0x10A00000#32 &&& 0x001FFFFF = 0 ∧ 5 = (fmtField 0x10A00000#32).toNat := by decide
theorem meets_RejectedCommandWordsFault_register :
    let s := { State.reset with input := [.commandWord 0x5000000C] }
    s.fault = false ∧ s.part ++ [0x5000000C] = [0x5000000C] ∧ 1 + ([] : List Word).length = commandLength 0x5000000C [] ∧
      opcField 0x5000000C#32 = 0x50 ∧ 0x5000000C#32 &&& 0x00FFFF00 = 0 ∧ 0x0C = (regField 0x5000000C#32).toNat := by decide

theorem meets_StepRunsDecodedCommand :
    let s := { State.reset with part := [0x02000000], input := [.commandWord 5, .deliver] }
    s.fault = false ∧ s.input = [.commandWord 5, .deliver] ∧ decode (s.part ++ [5]) = .command (.curSeek 5) [] := by decide
theorem meets_CommandRunsWhenAllWordsArrived :
    let i := Instr.curWrite 1 [7]
    let s := { State.reset with input := (encode i).map PortEvent.commandWord ++ [PortEvent.deliver] }
    i.wellFormed = true ∧ s.fault = false ∧ s.part = [] ∧ s.input = (encode i).map PortEvent.commandWord ++ [.deliver] := by
  decide
theorem meets_IdleAndDelivery :
    State.reset.input = [] ∧ ({ State.reset with rsp := [1, 2], input := [.deliver] } : State).input = [PortEvent.deliver] := by decide
theorem meets_ResetEventGivesFreshState :
    ({ literal 8 [[1]] 2 with part := [0x01000000], rsp := [0], input := [.resetInput] } : State).input = .resetInput :: [] := by decide
theorem meets_FreshStateOutcomes : (1 : Word).toNat ≤ Config.capMax := by decide
theorem meets_FaultStateDropsWords :
    let s := { State.reset.takeFault 0 ⟨.rowEmpty, 0⟩ with input := [.commandWord 1] }
    s.fault = true ∧ s.input = [.commandWord 1] := by decide
theorem meets_FaultLeftOnlyByReset :
    let s := { State.reset.takeFault 0 ⟨.rowEmpty, 0⟩ with input := [.commandWord 1, .deliver, .resetInput] }
    s.fault = true ∧ ∀ e ∈ s.input.take 2, e ≠ .resetInput := by decide
theorem meets_FaultEntryIsPrecise :
    State.reset.fault = false ∧ exec .curTell State.reset = .next (State.reset.takeFault 0x03000000 ⟨.notConfigured, 0x03000000⟩) ∧
      (State.reset.takeFault 0x03000000 ⟨.notConfigured, 0x03000000⟩).fault = true := ⟨rfl, rfl, rfl⟩
theorem meets_CompletedCommandsAnswerByTheTable :
    (written 8).fault = false ∧ (written 8).CursorInv ∧
      exec .curTell (written 8) = .next ((written 8).respond [0x03000000, 4]) ∧
      ((written 8).respond [0x03000000, 4]).fault = false := ⟨rfl, cursor_written, rfl, rfl⟩
theorem meets_UnconfiguredCommandsFault :
    State.reset.ca = false ∧ ((buffer 8).rleCfg = false ∧ (buffer 8).ca = true) ∧ (buffer 8).rowCfg = false ∧
      (encoder 8 0).encCfg = false ∧ ((State.reset.rleSetup 0).rleCfg = true ∧ (State.reset.rleSetup 0).ca = false) := by decide

theorem meets_CurAllocGivesZeroedBuffer :
    (0 : Word).toNat ≤ Config.capMax ∧ (BitVec.ofNat 32 Config.capMax).toNat ≤ Config.capMax :=
  ⟨Nat.zero_le _, Nat.le_of_eq capMax_fits⟩
theorem meets_CurSeekMovesPos :
    (buffer 8).ca = true ∧ (8 : Word).toNat ≤ (buffer 8).cap.toNat ∧ (buffer 8).cap.toNat < (9 : Word).toNat := by decide
theorem meets_CurTellAnswersPos : (written 8).ca = true := by decide
theorem meets_CurWriteAppendsItsBytes_fits :
    (Instr.curWrite 4 [0x08070605]).wellFormed = true ∧ (written 8).ca = true ∧ (written 8).CursorInv ∧
      (written 8).pos.toNat + (4 : Word).toNat ≤ (written 8).cap.toNat := ⟨by decide, rfl, cursor_written, by decide⟩
theorem meets_CurWriteAppendsItsBytes_faults :
    (Instr.curWrite 5 [1, 2]).wellFormed = true ∧ (written 8).ca = true ∧ (written 8).CursorInv ∧
      (written 8).cap.toNat < (written 8).pos.toNat + (5 : Word).toNat := ⟨by decide, rfl, cursor_written, by decide⟩
theorem meets_CurSliceAnswersTheBytes :
    (written 8).ca = true ∧ (written 8).CursorInv ∧
      ((4 : Word) = (some 4 : Option Word).getD 0 ∧ (4 : Word) = (none : Option Word).getD (written 8).extent ∧
        (4 : Word).toNat ≤ (written 8).extent.toNat) ∧
      ((written 8).extent.toNat < (5 : Word).toNat) ∧
      ((3 : Word).toNat ≤ (written 8).extent.toNat ∧ (3 : Word).toNat < (4 : Word).toNat) :=
  ⟨rfl, cursor_written, by decide, by decide, by decide⟩
theorem meets_SliceOfMissingBytesStops :
    let s := { buffer 4 with extent := 5 }
    s.ca = true ∧ (4 : Word).toNat < (5 : Word).toNat ∧ (5 : Word).toNat ≤ s.extent.toNat ∧ s.cap.toNat < (5 : Word).toNat := by
  decide
theorem meets_PackBgr565IsLittleEndian :
    (0xF800 : Nat) = 2048 * (((0xFF : Byte).toNat * 31 + 127) / 255) + 32 * (((0 : Byte).toNat * 63 + 127) / 255) +
      ((0 : Byte).toNat * 31 + 127) / 255 := by decide
theorem meets_PackAbgr6666IsLittleEndian :
    ((0 : Nat) = if (0 : Byte) = 0 then 0 else 1) ∧
      (0x40040 : Nat) = if (1 : Byte) = 0 then 0 else
        262144 * (((4 : Byte).toNat * 63 + 127) / 255) + 4096 * (((2 : Byte).toNat * 63 + 127) / 255) +
          64 * (((4 : Byte).toNat * 63 + 127) / 255) + ((1 : Byte).toNat * 63 + 127) / 255 := by decide
theorem meets_ScaleStepsWhereStated :
    ((31 : Nat) = 31 ∨ (31 : Nat) = 63) ∧ ((63 : Nat) = 31 ∨ (63 : Nat) = 63) ∧ (0 : Byte).toNat ≤ (255 : Byte).toNat ∧
      1 ≤ 31 ∧ 31 ≤ 31 := by decide

theorem meets_RlePushContinuesRun_counts :
    (running 2 2 7).CursorInv ∧ (running 2 2 7).rleCfg = true ∧ (running 2 2 7).ca = true ∧ (running 2 2 7).isCompress ∧
      pixelOf (bppOf (running 2 2 7).rleBpm1) 7 = (running 2 2 7).lastPixel ∧ (running 2 2 7).rleCnt.toNat < 126 :=
  ⟨cursor_running, rfl, rfl, compress_running, rfl, by decide⟩
theorem meets_RlePushContinuesRun_emits :
    (running 2 126 7).CursorInv ∧ (running 2 126 7).rleCfg = true ∧ (running 2 126 7).ca = true ∧ (running 2 126 7).isCompress ∧
      pixelOf (bppOf (running 2 126 7).rleBpm1) 0x107 = (running 2 126 7).lastPixel ∧ (running 2 126 7).rleCnt.toNat = 126 ∧
      (running 2 126 7).pos.toNat + (1 + bppOf (running 2 126 7).rleBpm1) ≤ (running 2 126 7).cap.toNat :=
  ⟨cursor_running_full, rfl, rfl, compress_running_full, by decide, by decide, by decide⟩
theorem meets_RlePushEndsRun :
    (running 2 126 7).CursorInv ∧ (running 2 126 7).rleCfg = true ∧ (running 2 126 7).ca = true ∧ (running 2 126 7).isCompress ∧
      pixelOf (bppOf (running 2 126 7).rleBpm1) 9 ≠ (running 2 126 7).lastPixel ∧
      (running 2 126 7).pos.toNat + (1 + bppOf (running 2 126 7).rleBpm1) ≤ (running 2 126 7).cap.toNat :=
  ⟨cursor_running_full, rfl, rfl, compress_running_full, by decide, by decide⟩
theorem meets_RlePushStartsRun :
    let s := literal 8 [[1]] 2
    s.CursorInv ∧ s.rleCfg = true ∧ s.ca = true ∧ s.isRaw ∧ pixelOf (bppOf s.rleBpm1) 2 = s.lastPixel ∧
      ([1, 1] : List Byte) = (if s.rleCnt.toNat = 0 then [] else BitVec.ofNat 8 s.rleCnt.toNat :: s.rawBuf.flatten) ∧
      s.pos.toNat + ([1, 1] : List Byte).length ≤ s.cap.toNat :=
  ⟨cursor_literal, rfl, rfl, raw_literal, by decide, by decide, by decide⟩
theorem meets_RlePushCommitsPendingPixel_idle :
    (encoder 8 0).CursorInv ∧ (encoder 8 0).rleCfg = true ∧ (encoder 8 0).ca = true ∧ (encoder 8 0).isIdle :=
  ⟨cursor_encoder, rfl, rfl, idle_encoder⟩
theorem meets_RlePushCommitsPendingPixel_room :
    let s := literal 8 [[1]] 2
    s.CursorInv ∧ s.rleCfg = true ∧ s.ca = true ∧ s.isRaw ∧ pixelOf (bppOf s.rleBpm1) 3 ≠ s.lastPixel ∧ s.rleCnt.toNat < 126 :=
  ⟨cursor_literal, rfl, rfl, raw_literal, by decide, by decide⟩
set_option maxRecDepth 4000 in
theorem meets_RlePushCommitsPendingPixel_full :
    let s := literal 128 alternating 1
    s.CursorInv ∧ s.rleCfg = true ∧ s.ca = true ∧ s.isRaw ∧ pixelOf (bppOf s.rleBpm1) 3 ≠ s.lastPixel ∧ s.rleCnt.toNat = 126 ∧
      s.pos.toNat + (1 + (s.rawBuf ++ [s.lastPixel]).flatten.length) ≤ s.cap.toNat :=
  ⟨cursor_literal_full, rfl, rfl, raw_literal_full, by decide, by decide, by decide⟩
theorem meets_RleFlushEmitsTrailingSection_idle :
    let s := encoder 8 0
    s.CursorInv ∧ s.rleCfg = true ∧ s.ca = true ∧ s.isIdle ∧ ¬s.isRaw ∧ ¬s.isCompress ∧
      s.pos.toNat + ([] : List Byte).length ≤ s.cap.toNat :=
  ⟨cursor_encoder, rfl, rfl, idle_encoder, (nomatch ·.2.1), (nomatch ·.1), by decide⟩
theorem meets_RleFlushEmitsTrailingSection_raw :
    let s := literal 8 [[1]] 2
    s.CursorInv ∧ s.rleCfg = true ∧ s.ca = true ∧ s.isRaw ∧ ¬s.isIdle ∧ ¬s.isCompress ∧
      ([2, 1, 2] : List Byte) = BitVec.ofNat 8 (s.rleCnt.toNat + 1) :: (s.rawBuf ++ [s.lastPixel]).flatten ∧
      s.pos.toNat + ([2, 1, 2] : List Byte).length ≤ s.cap.toNat :=
  ⟨cursor_literal, rfl, rfl, raw_literal, (nomatch ·.2.1), (nomatch ·.1), by decide, by decide⟩
theorem meets_RleFlushEmitsTrailingSection_compress :
    let s := running 2 2 7
    s.CursorInv ∧ s.rleCfg = true ∧ s.ca = true ∧ s.isCompress ∧ ¬s.isIdle ∧ ¬s.isRaw ∧
      ([0x82, 7] : List Byte) = BitVec.ofNat 8 (128 + s.rleCnt.toNat) :: s.lastPixel ∧
      s.pos.toNat + ([0x82, 7] : List Byte).length ≤ s.cap.toNat :=
  ⟨cursor_running, rfl, rfl, compress_running, (nomatch ·.1), (nomatch ·.1), by decide, by decide⟩
theorem meets_SectionThatDoesNotFitFaults_push :
    let s := running 1 126 7
    s.RleInv ∧ s.CursorInv ∧ s.rleCfg = true ∧ s.ca = true ∧
      s.cap.toNat < s.pos.toNat + (s.pushSection (pixelOf (bppOf s.rleBpm1) 7)).length :=
  ⟨rle_running_tight, cursor_running_tight, rfl, rfl, by decide⟩
theorem meets_SectionThatDoesNotFitFaults_flush :
    let s := literal 1 [[1]] 2
    s.RleInv ∧ s.CursorInv ∧ s.rleCfg = true ∧ s.ca = true ∧ s.cap.toNat < s.pos.toNat + s.flushSection.length :=
  ⟨rle_literal_tight, cursor_literal_tight, rfl, rfl, by decide⟩
theorem meets_RleRoundTrip :
    let s := encoder 8 0
    s.isIdle ∧ s.CursorInv ∧ s.fault = false ∧
      (execAll (([1, 2, 2] : List Word).map Instr.rlePush ++ [.rleFlush]) s).isSome = true :=
  ⟨idle_encoder, cursor_encoder, rfl, by decide⟩
theorem meets_RleWorstCase :
    let s := encoder 8 0
    s.isIdle ∧ s.CursorInv ∧ s.fault = false ∧ s.rleCfg = true ∧ s.ca = true ∧
      s.pos.toNat + ([1, 2, 2, 3] : List Word).length * (bppOf s.rleBpm1 + 1) ≤ s.cap.toNat :=
  ⟨idle_encoder, cursor_encoder, rfl, rfl, rfl, by decide⟩
theorem meets_UniformRunBytes :
    let s := encoder 8 0
    1 ≤ 3 ∧ s.isIdle ∧ s.CursorInv ∧ s.fault = false ∧
      (execAll (List.replicate 3 (.rlePush 5) ++ [.rleFlush]) s).isSome = true :=
  ⟨by decide, idle_encoder, cursor_encoder, rfl, by decide⟩

theorem meets_RowPushWritesPixel :
    (row 4 3 0).CursorInv ∧ (row 4 3 0).rowCfg = true ∧ (row 4 3 0).ca = true ∧
      (row 4 3 0).pos.toNat + bppOf (row 4 3 0).rowBpm1 ≤ (row 4 3 0).cap.toNat :=
  ⟨cursor_row, rfl, rfl, by decide⟩
theorem meets_RowPushWritesPixel_faults :
    let s := { row 4 3 0 with pos := 1, extent := 1 }
    s.CursorInv ∧ s.rowCfg = true ∧ s.ca = true ∧ s.cap.toNat < s.pos.toNat + bppOf s.rowBpm1 :=
  ⟨⟨by decide, by decide, by decide, by decide, by decide⟩, rfl, rfl, by decide⟩
theorem meets_RowEndDuplicatesAndPads :
    let s := rowOne 4 0
    s.CursorInv ∧ s.rowCfg = true ∧ s.ca = true ∧ 2 < 4 ∧
      ((s.pos.toNat + bppOf s.rowBpm1 + 2 : Nat) - (s.rowBase.toNat : Int)) % 4 = 0 ∧ s.rowLastv = true ∧
      s.pos.toNat + bppOf s.rowBpm1 + 2 ≤ s.cap.toNat :=
  ⟨cursor_rowOne, rfl, rfl, by decide, by decide, rfl, by decide⟩
theorem meets_RowEndDuplicatesAndPads_faults :
    let s := rowOne 3 0
    s.CursorInv ∧ s.rowCfg = true ∧ s.ca = true ∧ 2 < 4 ∧
      ((s.pos.toNat + bppOf s.rowBpm1 + 2 : Nat) - (s.rowBase.toNat : Int)) % 4 = 0 ∧ s.rowLastv = true ∧
      s.cap.toNat < s.pos.toNat + bppOf s.rowBpm1 + 2 :=
  ⟨cursor_rowOne_tight, rfl, rfl, by decide, by decide, rfl, by decide⟩
theorem meets_RowEndDuplicatesAndPads_empty :
    let s := row 4 3 0
    s.CursorInv ∧ s.rowCfg = true ∧ s.ca = true ∧ 0 < 4 ∧
      ((s.pos.toNat + bppOf s.rowBpm1 + 0 : Nat) - (s.rowBase.toNat : Int)) % 4 = 0 ∧ s.rowLastv = false :=
  ⟨cursor_row, rfl, rfl, by decide, by decide, rfl⟩
theorem meets_RowLayout :
    let s := row 8 1 0
    s.CursorInv ∧ s.fault = false ∧ s.rowCfg = true ∧ s.ca = true ∧ ((s.pos.toNat : Int) - (s.rowBase.toNat : Int)) % 4 = 0 ∧
      s.pos.toNat + rowBytes (([1] : List Word).length + 1) (bppOf s.rowBpm1) ≤ s.cap.toNat ∧ 1 ≤ 1 :=
  ⟨⟨by decide, by decide, by decide, by decide, by decide⟩, rfl, rfl, rfl, by decide, by decide, by decide⟩
theorem meets_UncompressedPayloadLength :
    let s := row 12 0 0
    s.CursorInv ∧ s.fault = false ∧ s.rowCfg = true ∧ s.ca = true ∧ s.pos = s.rowBase ∧ 1 ≤ 2 ∧
      (∀ r ∈ ([[1, 2]] : List (List Word)) ++ [[3, 4]], r.length = 2) ∧
      s.pos.toNat + (([[1, 2]] : List (List Word)).length + 2) * rowBytes 2 (bppOf s.rowBpm1) ≤ s.cap.toNat :=
  ⟨⟨by decide, by decide, by decide, by decide, by decide⟩, rfl, rfl, rfl, rfl, by decide, by decide, by decide⟩

theorem meets_PixFeedsTheEmitter_rle :
    let s := frontPending
    s.Inv ∧ s.encCfg = true ∧ s.ca = true ∧ s.encRle = true ∧
      s.pos.toNat + (s.pushSection (pack s.encFmt 7)).length ≤ s.cap.toNat :=
  ⟨inv_frontPending, rfl, rfl, rfl, by decide⟩
theorem meets_PixFeedsTheEmitter_raw :
    let s := front 8 .bgra8888 false 0
    s.Inv ∧ s.encCfg = true ∧ s.ca = true ∧ s.encRle = false ∧ s.pos.toNat + s.encFmt.bpp ≤ s.cap.toNat :=
  ⟨inv_front, rfl, rfl, rfl, by decide⟩
theorem meets_FrontEndIsTheUnits :
    (frontPending.FrontInv ∧ frontPending.encCfg = true ∧ frontPending.ca = true ∧ frontPending.encRle = true) ∧
      (frontOne 4).FrontInv ∧ (frontOne 4).encCfg = true ∧ (frontOne 4).ca = true ∧ (frontOne 4).encRle = false :=
  ⟨⟨inv_frontPending.front, rfl, rfl, rfl⟩, inv_frontOne.front, rfl, rfl, rfl⟩
theorem meets_EorAndEoiComplete_raw :
    let s := frontOne 4
    s.Inv ∧ s.encCfg = true ∧ s.ca = true ∧ 2 < 4 ∧
      ((s.pos.toNat + s.encFmt.bpp + 2 : Nat) - (s.rowBase.toNat : Int)) % 4 = 0 ∧ s.encRle = false ∧ s.rowLastv = true ∧
      s.pos.toNat + s.encFmt.bpp + 2 ≤ s.cap.toNat :=
  ⟨inv_frontOne, rfl, rfl, by decide, by decide, rfl, rfl, by decide⟩
theorem meets_EorAndEoiComplete_rle :
    let s := frontPending
    s.Inv ∧ s.encCfg = true ∧ s.ca = true ∧ 3 < 4 ∧
      ((s.pos.toNat + s.encFmt.bpp + 3 : Nat) - (s.rowBase.toNat : Int)) % 4 = 0 ∧ s.encRle = true ∧
      s.pos.toNat + s.flushSection.length ≤ s.cap.toNat :=
  ⟨inv_frontPending, rfl, rfl, by decide, by decide, rfl, by decide⟩

theorem meets_StepKeepsInvariant :
    { frontOne 4 with input := [.commandWord 0x42000000] }.Inv ∧
      (stepped { frontOne 4 with input := [.commandWord 0x42000000] }).isSome = true :=
  ⟨⟨⟨inv_frontOne.cursor.1, inv_frontOne.cursor.2, inv_frontOne.cursor.3, inv_frontOne.cursor.4, inv_frontOne.cursor.5⟩,
    ⟨inv_frontOne.rle.1, inv_frontOne.rle.2, inv_frontOne.rle.3, inv_frontOne.rle.4, inv_frontOne.rle.5⟩,
    ⟨inv_frontOne.row.1, inv_frontOne.row.2⟩, inv_frontOne.front, ⟨inv_frontOne.faults.1, inv_frontOne.faults.2⟩, rfl⟩,
    by decide⟩
theorem meets_InvariantStatesNeverStop : (frontOne 4).Inv := inv_frontOne
theorem meets_CapStaysWithinCapMax :
    (buffer 1).CapInv ∧ (stepped (buffer 1)).isSome = true ∧
      ((after (.curAlloc 1) State.reset).map fun t => decide (t.cap ≠ State.reset.cap)) = some true :=
  ⟨by unfold State.CapInv; decide, by decide, by decide⟩
theorem meets_RegistersWrittenOnlyAsListed :
    State.reset.fault = false ∧
      ((after (.rowInit 1 40) State.reset).map fun t => decide (t.readReg .rowBase ≠ State.reset.readReg .rowBase)) = some true ∧
      ((after .curTell State.reset).map fun t => decide (t.readReg .cause ≠ State.reset.readReg .cause)) = some true ∧
      ((after (.rowPush 5) (row 8 0 0)).map fun t => decide (t.rowLast ≠ (row 8 0 0).rowLast)) = some true ∧
      ((after (.rowInit 0 0) { row 8 3 0 with rowLast := 0x44332211 }).map fun t => decide (t.readReg .rowLast ≠ 0x44332211)) =
        some true := by decide
theorem meets_ConfigurationBitTransitions :
    ((after (.curAlloc 0) State.reset).map (·.ca)) = some true ∧ ((after (.rleInit 0) State.reset).map (·.rleCfg)) = some true ∧
      ((after (.rowInit 0 0) State.reset).map (·.rowCfg)) = some true ∧
      ((after (.cfg .a8 false 0) State.reset).map (·.encCfg)) = some true ∧
      ((after (.rowInit 0 0) (front 8 .a8 false 0)).map (·.encCfg)) = some false := by decide
theorem meets_WritesStayBetweenOldAndNewPos :
    (written 8).CursorInv ∧ (after (.curWrite 1 [9]) (written 8)).isSome = true ∧ ∀ x, Instr.curWrite 1 [9] ≠ .curAlloc x :=
  ⟨cursor_written, by decide, fun _ h => (nomatch h)⟩
theorem meets_HeaderWordsAgree :
    (Config.texCode .a8 = if false then Config.texCode .a8 ||| 0x10000000 else Config.texCode .a8) := rfl

end Sys2Proof.Tests
end

/-! # Proofs of the statements of spec/00_scope.md -/

section
/-! PROOF. The decoder undoes the encoder, and the command words of R77 written out decode to what they stand for. -/

open Sys2Proof.Laws

namespace Sys2Proof

/-! ## The decoder on the words of a command -/

/-- Every command's words satisfy the framing rules (spec/30_encoding.md R71, R72, R80). -/
theorem framed : ∀ i : Instr, Framed.Statement i
  | .nop => Framed.nop
  | .curAlloc x => Framed.curAlloc x
  | .curSeek x => Framed.curSeek x
  | .curTell => Framed.curTell
  | .curWrite n data => Framed.curWrite n data
  | .curSlice start stop => Framed.curSlice start stop
  | .packA8 rgba => Framed.packA8 rgba
  | .packBgr565 rgba => Framed.packBgr565 rgba
  | .packBgra8888 rgba => Framed.packBgra8888 rgba
  | .packAbgr6666 rgba => Framed.packAbgr6666 rgba
  | .packAbgr8888 rgba => Framed.packAbgr8888 rgba
  | .rleInit bpm1 => Framed.rleInit bpm1
  | .rlePush p => Framed.rlePush p
  | .rleFlush => Framed.rleFlush
  | .rowInit bpm1 base => Framed.rowInit bpm1 base
  | .rowPush p => Framed.rowPush p
  | .rowEnd => Framed.rowEnd
  | .cfg fmt rle base => Framed.cfg fmt rle base
  | .pix rgba => Framed.pix rgba
  | .eor => Framed.eor
  | .eoi => Framed.eoi
  | .rd reg => Framed.rd reg

/-- The BPM1 field is read back from the command words that carry it, RLE_INIT's and ROW_INIT's (R73). -/
theorem bpm1Field_word (b : BitVec 2) (base : Word) :
    bpm1Field (Instr.rleInit b).word = b ∧ bpm1Field (Instr.rowInit b base).word = b := by
  rw [word_rleInit, word_rowInit]
  revert b
  decide

/-- HF and HT of CUR_SLICE's command word say which operands follow it (R73). -/
theorem sliceFields_word (start stop : Option Word) :
    hfField (Instr.curSlice start stop).word = start.isSome ∧ htField (Instr.curSlice start stop).word = stop.isSome := by
  rw [word_curSlice]
  generalize start.isSome = hf, stop.isSome = ht
  revert hf ht
  decide

/-- The FMT field of a PACK command word names the command's texture format (R73). -/
theorem fmtField_packInstr_word (f : Fmt) (rgba : Word) : fmtField (packInstr f rgba).word = f.code := by
  cases f with
  | a8 => rw [packInstr, word_packA8]; decide
  | bgr565 => rw [packInstr, word_packBgr565]; decide
  | bgra8888 => rw [packInstr, word_packBgra8888]; decide
  | abgr6666 => rw [packInstr, word_packAbgr6666]; decide
  | abgr8888 => rw [packInstr, word_packAbgr8888]; decide

/-- The fields of CFG's command word are read back from it (R73). -/
theorem cfgFields_word (fmt : Fmt) (rle : Bool) (base : Word) :
    fmtField (Instr.cfg fmt rle base).word = fmt.code ∧ rleField (Instr.cfg fmt rle base).word = rle := by
  rw [word_cfg]
  cases fmt <;> cases rle <;> decide

/-- The REG field of RD's command word is the register's index (R73). -/
theorem regField_word (reg : Reg) : regField (Instr.rd reg).word = reg.index := by
  rw [word_rd]
  cases reg <;> decide

/-- A PACK command is rebuilt from its command word and its operand (R73). -/
theorem buildInstr_packInstr_word (f : Fmt) (rgba : Word) :
    buildInstr .pack (packInstr f rgba).word [rgba] = .ok (packInstr f rgba) := by
  simp only [buildInstr, fmtField_packInstr_word, Fmt.ofCode_code]
  rfl

/-- CUR_SLICE is rebuilt from its command word and the operands that are present (R73). -/
theorem sliceInstr_word (start stop : Option Word) :
    sliceInstr (Instr.curSlice start stop).word (start.toList ++ stop.toList) = .curSlice start stop := by
  obtain ⟨hhf, hht⟩ := sliceFields_word start stop
  simp only [sliceInstr, hhf, hht]
  cases start <;> cases stop <;> rfl

/-- A command is rebuilt from its opcode, its command word and its operand words (R73). -/
theorem buildInstr_word_operands (i : Instr) : buildInstr i.opc i.word i.operands = .ok i := by
  cases i with
  | curSlice start stop => exact congrArg Except.ok (sliceInstr_word start stop)
  | packA8 rgba => exact buildInstr_packInstr_word .a8 rgba
  | packBgr565 rgba => exact buildInstr_packInstr_word .bgr565 rgba
  | packBgra8888 rgba => exact buildInstr_packInstr_word .bgra8888 rgba
  | packAbgr6666 rgba => exact buildInstr_packInstr_word .abgr6666 rgba
  | packAbgr8888 rgba => exact buildInstr_packInstr_word .abgr8888 rgba
  | rleInit b => exact congrArg (fun b => Except.ok (Instr.rleInit b)) (bpm1Field_word b 0).1
  | rowInit b base => exact congrArg (fun b => Except.ok (Instr.rowInit b base)) (bpm1Field_word b base).2
  | cfg fmt rle base =>
    obtain ⟨hfmt, hrle⟩ := cfgFields_word fmt rle base
    simp only [Instr.opc, buildInstr, hfmt, hrle, Fmt.ofCode_code]
    rfl
  | rd reg => simp only [Instr.opc, buildInstr, regField_word, Reg.ofIndex_index]
  | _ => rfl

/-- The decoder reads a command's own words, whatever follows them, as that command (R70, R72, R73). -/
theorem decode_encode_append {i : Instr} (hi : i.wellFormed = true) (rest : List Word) :
    decode (encode i ++ rest) = .command i rest := by
  obtain ⟨hopc, hreserved, hlen⟩ := framed i
  have hcount : operandCount i.opc i.word (i.operands ++ rest) = i.operands.length :=
    (operandCount_append rest (hlen hi).ge).trans (hlen hi).symm
  have hfields : decodeFields i.opc i.word i.operands = .ok i := by
    simp only [decodeFields, hreserved, ne_eq, not_true_eq_false, if_false, buildInstr_word_operands]
  have ho : Opc.ofByte (opcField i.word) = some i.opc := by rw [hopc, Opc.ofByte_byte]
  have hmore : operandCount i.opc i.word (i.operands ++ rest) ≤ (i.operands ++ rest).length := by
    rw [hcount, List.length_append]
    omega
  rw [encode, List.cons_append, decode_complete ho hmore, hcount, List.take_left, List.drop_left, hfields]

/-! ## Words written out -/

/-- Words that are the encoding of a command decode to it, with nothing left. -/
theorem decode_of_encode_eq {i : Instr} {ws : List Word} (hi : i.wellFormed = true) (hws : encode i = ws) :
    decode ws = .command i [] := by
  rw [← hws, ← List.append_nil (encode i), decode_encode_append hi]

/-- The same for a table of words against a table of commands, row by row. -/
theorem map_decode_of_map_encode {α β : Type} (words : α → List Word) (cmd : β → Instr) {as : List α} {bs : List β}
    (hwf : ∀ b ∈ bs, (cmd b).wellFormed = true) (henc : bs.map (fun b => encode (cmd b)) = as.map words) :
    as.map (fun a => decode (words a)) = bs.map fun b => .command (cmd b) [] :=
  calc as.map (fun a => decode (words a))
    _ = (as.map words).map decode := by rw [List.map_map]; rfl
    _ = bs.map (fun b => decode (encode (cmd b))) := by rw [← henc, List.map_map]; rfl
    _ = bs.map fun b => .command (cmd b) [] := List.map_congr_left fun b hb => decode_of_encode_eq (hwf b hb) rfl

/-- Settles O5: each sample is the encoding of the command beside it, and the decoder undoes the encoder. -/
theorem sampleWordsDecode : Obligations.SampleWordsDecode := by
  unfold Obligations.SampleWordsDecode
  refine ⟨?cfg, ?rowInit, ?curWrite, ?curSlice, ?pack, ?rd, ?everyReg, ?everyPackFmt, ?everyRawFmt, ?everyRleFmt⟩
  case curWrite => exact decode_of_encode_eq (by decide) (by decide)
  case cfg | rowInit | curSlice | pack | rd => exact decode_of_encode_eq rfl (by decide)
  case everyReg => exact map_decode_of_map_encode (fun w => [w]) .rd (fun _ _ => rfl) (by decide)
  case everyPackFmt => exact map_decode_of_map_encode (fun w => [w, 0x78563412]) id (by decide) (by decide)
  case everyRawFmt => exact map_decode_of_map_encode (fun w => [w, 40]) (fun f => .cfg f false 40) (fun _ _ => rfl) (by decide)
  case everyRleFmt => exact map_decode_of_map_encode (fun w => [w, 40]) (fun f => .cfg f true 40) (fun _ _ => rfl) (by decide)

end Sys2Proof
end

section
/-! PROOF. The bytes of a packed-pixel operand: which they are, and the number they stand for. -/

namespace Sys2Proof.Machine

/-- Byte k of a word is its bits 8*k+7 to 8*k (R11, spec/20_memory.md R53). -/
theorem leBytes_getD (w : Word) {k : Nat} (hk : k < 4) : (leBytes w).getD k 0 = w.extractLsb' (8 * k) 8 := by
  match k, hk with
  | 0, _ | 1, _ | 2, _ | 3, _ => rfl

/-- Byte k of a packed pixel is byte k of the word that carries it (R13). -/
theorem pixelOf_getD (p : Word) {n k : Nat} (hk : k < n) (hn : n ≤ 4) :
    (pixelOf n p).getD k 0 = p.extractLsb' (8 * k) 8 := by
  rw [← leBytes_getD p (hk.trans_le hn)]
  simp only [pixelOf, List.getD_eq_getElem?_getD, List.getElem?_take_of_lt hk]

/-- A packed pixel is its lowest byte and then the pixel of the bits above it. -/
theorem pixelOf_succ (p : Word) {n : Nat} (hn : n ≤ 3) :
    pixelOf (n + 1) p = p.extractLsb' 0 8 :: pixelOf n (p >>> 8) := by
  have hnext : ∀ k, (p >>> 8).extractLsb' k 8 = p.extractLsb' (8 + k) 8 := by
    intro k
    ext i hi
    simp [Nat.add_assoc]
  match n, hn with
  | 0, _ | 1, _ | 2, _ | 3, _ => simp only [pixelOf, leBytes, hnext, List.take_succ_cons, List.take_zero]

/-- fromLE is base 256 with the first byte lowest, as long as the bytes fit a word (R11). -/
theorem fromLE_cons_toNat (b : Byte) {bs : List Byte} (h : bs.length ≤ 3) :
    (fromLE (b :: bs)).toNat = b.toNat + 2 ^ 8 * (fromLE bs).toNat := by
  have hbs : (fromLE bs).toNat < 2 ^ 24 :=
    (fromLE_lt bs (by omega)).trans_le (Nat.pow_le_pow_right (by omega) (by omega))
  have hb := b.isLt
  have hshift : (fromLE bs <<< 8).toNat = (fromLE bs).toNat <<< 8 := by
    rw [BitVec.toNat_shiftLeft, Nat.shiftLeft_eq, Nat.mod_eq_of_lt (by omega)]
  rw [fromLE, BitVec.toNat_or, BitVec.toNat_setWidth, Nat.mod_eq_of_lt (by omega), hshift, Nat.or_comm,
    ← Nat.shiftLeft_add_eq_or_of_lt hb, Nat.shiftLeft_eq, Nat.add_comm, Nat.mul_comm]

/-- A packed pixel stands for the low 8*bpp bits of the word that carries it; the bits above are ignored (R13, R75). -/
theorem fromLE_pixelOf_toNat : ∀ {n : Nat} (p : Word), n ≤ 4 → (fromLE (pixelOf n p)).toNat = p.toNat % 2 ^ (8 * n)
  | 0, p, _ => by simp [pixelOf, fromLE, Nat.mod_one]
  | n + 1, p, hn => by
    have hlen : (pixelOf n (p >>> 8)).length ≤ 3 := by
      simp only [pixelOf, List.length_take]
      omega
    have hlow : (p.extractLsb' 0 8).toNat = p.toNat % 2 ^ 8 := by simp [BitVec.extractLsb'_toNat]
    have hhigh : (p >>> 8).toNat = p.toNat / 2 ^ 8 := by rw [BitVec.toNat_ushiftRight, Nat.shiftRight_eq_div_pow]
    calc (fromLE (pixelOf (n + 1) p)).toNat
      _ = (p.extractLsb' 0 8).toNat + 2 ^ 8 * (fromLE (pixelOf n (p >>> 8))).toNat := by
          rw [pixelOf_succ p (by omega), fromLE_cons_toNat _ hlen]
      _ = p.toNat % 2 ^ 8 + 2 ^ 8 * (p.toNat / 2 ^ 8 % 2 ^ (8 * n)) := by
          rw [hlow, fromLE_pixelOf_toNat _ (by omega), hhigh]
      _ = p.toNat % 2 ^ (8 * (n + 1)) := by
          rw [← Nat.mod_mul, ← Nat.pow_add, Nat.mul_succ, Nat.add_comm]

/-- Settles O28: the pixel's bytes one by one, and the number they stand for by induction on the width. -/
theorem pixelOperandBytes : Obligations.PixelOperandBytes := by
  unfold Obligations.PixelOperandBytes
  intro b p
  refine ⟨pixelOf_length b p, fun k hk => pixelOf_getD p hk (bppOf_le b), ?_⟩
  apply BitVec.eq_of_toNat_eq
  rw [fromLE_pixelOf_toNat p (bppOf_le b), BitVec.toNat_ofNat, bppOf,
    Nat.mod_eq_of_lt ((Nat.mod_le _ _).trans_lt p.isLt)]

end Sys2Proof.Machine
end

section
/-! PROOF. What a command and a step can do to the block, said once: which traps a body raises, the effect of a command that
completes, and the cases of a step. -/

namespace Sys2Proof.Machine

/-! ## The traps a command body can raise -/

/-- Every trap the body can raise names a cause, as R241's codes 1 to 6 do. -/
def TrapsNamed (r : Except Trap State) : Prop := ∀ tr, r = .error tr → tr.cause ≠ .none

theorem trapsNamed_ok (u : State) : TrapsNamed (.ok u) := fun _ h => nomatch h

theorem trapsNamed_error {tr : Trap} (h : tr.cause ≠ .none) : TrapsNamed (.error tr) := by
  rintro _ ⟨⟩
  exact h

theorem TrapsNamed.require {b : Bool} {tr : Trap} {r : Except Trap State} (h : tr.cause ≠ .none) (hr : TrapsNamed r) :
    TrapsNamed (require b tr r) := by
  cases b with
  | false => exact trapsNamed_error h
  | true => exact hr

theorem TrapsNamed.requireBit {b : Bool} {w : Word} {r : Except Trap State} (hr : TrapsNamed r) :
    TrapsNamed (requireBit b w r) :=
  hr.require (by simp)

theorem TrapsNamed.map {r : Except Trap State} {f : State → State} (hr : TrapsNamed r) : TrapsNamed (r.map f) := by
  cases r with
  | ok u => exact trapsNamed_ok _
  | error tr => exact trapsNamed_error (hr tr rfl)

theorem trapsNamed_append (bs : List Byte) (s : State) : TrapsNamed (append bs s) := by
  intro tr h
  obtain ⟨-, rfl⟩ := append_eq_error.mp h
  simp

theorem trapsNamed_emitSection (m : RleMode) (n : Nat) (bs : List Byte) (s : State) :
    TrapsNamed (emitSection m n bs s) := by
  unfold emitSection
  split
  · exact trapsNamed_ok s
  · exact trapsNamed_append _ s

theorem trapsNamed_rleContinue (s : State) : TrapsNamed (rleContinue s) := by
  unfold rleContinue
  split
  · exact (trapsNamed_emitSection _ _ _ s).map
  · exact trapsNamed_ok _

theorem trapsNamed_rleLiteral (p : Pixel) (s : State) : TrapsNamed (rleLiteral p s) := by
  unfold rleLiteral
  split
  · exact trapsNamed_ok _
  split
  · exact (trapsNamed_emitSection _ _ _ s.commitPending).map
  · exact trapsNamed_ok _

theorem trapsNamed_rlePixel (p : Pixel) (s : State) : TrapsNamed (rlePixel p s) := by
  unfold rlePixel
  split <;> split
  · exact trapsNamed_rleContinue s
  · exact (trapsNamed_emitSection _ _ _ s).map
  · exact (trapsNamed_emitSection _ _ _ s).map
  · exact trapsNamed_rleLiteral p s

theorem trapsNamed_rlePushBody (w p : Word) (s : State) : TrapsNamed (rlePushBody w p s) :=
  (trapsNamed_rlePixel _ s).requireBit

theorem trapsNamed_rleFlushBody (w : Word) (s : State) : TrapsNamed (rleFlushBody w s) := by
  refine TrapsNamed.requireBit ?_
  unfold rleFinish
  split <;> exact (trapsNamed_emitSection _ _ _ _).map

theorem trapsNamed_rowPushBody (w p : Word) (s : State) : TrapsNamed (rowPushBody w p s) :=
  (trapsNamed_append _ s).map.requireBit

theorem trapsNamed_rowEndBody (w : Word) (s : State) : TrapsNamed (rowEndBody w s) := by
  refine TrapsNamed.requireBit (TrapsNamed.require (by simp) ?_)
  split
  · exact trapsNamed_error (by simp)
  · exact trapsNamed_ok _

theorem trapsNamed_emitPixel (w p : Word) (s : State) : TrapsNamed (emitPixel w p s) := by
  unfold emitPixel
  split
  · exact trapsNamed_rlePushBody w p s
  · exact trapsNamed_rowPushBody w p s

/-! ## The effect of a command -/

/-- What a command that completes can do to the state, its response apart: one constructor for each body that commands share,
with the checks that the body's configuration bits and operands have passed. -/
inductive Effect (s : State) : Instr → State → Prop
  | unchanged (i : Instr) : Effect s i s
  | alloc (x : Word) (hx : x.toNat ≤ Config.capMax) : Effect s (.curAlloc x) (s.allocate x)
  | seek (x : Word) (hx : x.toNat ≤ s.cap.toNat) : Effect s (.curSeek x) (s.moveTo x.toNat)
  | write (n : Word) (data : List Word) {u : State} (h : append (writeData n data) s = .ok u) : Effect s (.curWrite n data) u
  | rleInit (b : BitVec 2) : Effect s (.rleInit b) { s.rleSetup b with encCfg := false }
  | rowInit (b : BitVec 2) (base : Word) : Effect s (.rowInit b base) { s.rowSetup b base with encCfg := false }
  | cfg (f : Fmt) (r : Bool) (base : Word) :
      Effect s (.cfg f r base)
        { (s.rleSetup (bpm1Of f)).rowSetup (bpm1Of f) base with encFmt := f, encRle := r, encCfg := true }
  | rlePush {i : Instr} {p : Word} {u : State} (hi : (∃ x, i = .rlePush x) ∨ ∃ x, i = .pix x)
      (hcfg : s.rleCfg = true ∨ s.encCfg = true) (h : rlePixel (pixelOf (bppOf s.rleBpm1) p) s = .ok u) : Effect s i u
  | rleFlush {i : Instr} {u : State} (hi : i = .rleFlush ∨ i = .eoi) (h : rleFinish s = .ok u) : Effect s i u
  | rowPush {i : Instr} {w p : Word} {u : State} (hi : (∃ x, i = .rowPush x) ∨ ∃ x, i = .pix x)
      (hcfg : s.rowCfg = true ∨ s.encCfg = true) (h : rowPushBody w p s = .ok u) : Effect s i u
  | rowEnd {i : Instr} {w : Word} {u : State} (hi : i = .rowEnd ∨ i = .eor) (h : rowEndBody w s = .ok u) : Effect s i u

/-- How an executed command ends: with its effect and an OK response, or in the fault state of R244. -/
inductive Ends (s : State) (i : Instr) : State → Prop
  | completes {u : State} (ws : List Word) (h : Effect s i u) : Ends s i (u.respond ws)
  | faults (w : Word) {tr : Trap} (h : tr.cause ≠ .none) : Ends s i (s.takeFault w tr)

theorem Ends.of_finish {i : Instr} {w : Word} {s t : State} {r : Except Trap State} (h : finish w s r = .next t)
    (hr : TrapsNamed r) (hok : ∀ u, r = .ok u → Effect s i u) : Ends s i t := by
  obtain ⟨u, hu, rfl⟩ | ⟨tr, htr, rfl⟩ := finish_next h
  · exact .completes _ (hok u hu)
  · exact .faults w (hr tr htr)

theorem Ends.of_finishAdv {i : Instr} {w : Word} {s t : State} {r : Except Trap State} (h : finishAdv w s r = .next t)
    (hr : TrapsNamed r) (hok : ∀ u, r = .ok u → Effect s i u) : Ends s i t := by
  obtain ⟨u, hu, rfl⟩ | ⟨tr, htr, rfl⟩ := finishAdv_next h
  · exact .completes _ (hok u hu)
  · exact .faults w (hr tr htr)

/-- A command that cannot fault completes with its effect. -/
theorem Ends.of_next {i : Instr} {w : Word} {s u t : State} (h : finish w s (.ok u) = .next t) (hu : Effect s i u) :
    Ends s i t :=
  .of_finish h (trapsNamed_ok u) fun _ he => Except.ok.inj he ▸ hu

/-- A command that only answers changes nothing else. -/
theorem Ends.of_respond {i : Instr} {s t : State} {ws : List Word}
    (h : (.next (s.respond ws) : Host.Outcome State Fault Refusal) = .next t) : Ends s i t := by
  obtain rfl : s.respond ws = t := by simpa using h
  exact .completes ws (.unchanged i)

theorem Ends.of_takeFault {i : Instr} {w : Word} {tr : Trap} {s t : State}
    (h : (.next (s.takeFault w tr) : Host.Outcome State Fault Refusal) = .next t) (htr : tr.cause ≠ .none) : Ends s i t := by
  obtain rfl : s.takeFault w tr = t := by simpa using h
  exact .faults w htr

theorem ends_curTell {s t : State} (h : execCurTell s = .next t) : Ends s .curTell t := by
  unfold execCurTell at h
  split at h
  · exact .of_respond h
  · exact .of_takeFault h (by simp)

theorem ends_curSlice {start stop : Option Word} {s t : State} (h : execCurSlice start stop s = .next t) :
    Ends s (.curSlice start stop) t := by
  unfold execCurSlice at h
  split at h
  · exact .of_takeFault h (by simp)
  split at h
  · exact .of_takeFault h (by simp)
  split at h
  · exact .of_takeFault h (by simp)
  unfold answerSlice at h
  split at h
  · cases h
  · exact .of_respond h

theorem ends_pix {rgba : Word} {s t : State} (h : execPix rgba s = .next t) : Ends s (.pix rgba) t := by
  refine .of_finishAdv h (trapsNamed_emitPixel _ _ s).requireBit.requireBit fun u hu => ?_
  obtain ⟨henc, hu⟩ := requireBit_eq_ok.mp hu
  obtain ⟨-, hu⟩ := requireBit_eq_ok.mp hu
  unfold emitPixel at hu
  split at hu
  · exact .rlePush (.inr ⟨rgba, rfl⟩) (.inr henc) (requireBit_eq_ok.mp hu).2
  · exact .rowPush (.inr ⟨rgba, rfl⟩) (.inr henc) hu

theorem ends_eor {s t : State} (h : execEor s = .next t) : Ends s .eor t := by
  unfold execEor at h
  split at h
  · refine .of_finishAdv h (trapsNamed_ok s).requireBit.requireBit fun u hu => ?_
    obtain rfl : s = u := by simpa using (requireBit_eq_ok.mp (requireBit_eq_ok.mp hu).2).2
    exact .unchanged _
  · refine .of_finishAdv h (trapsNamed_rowEndBody _ s).requireBit.requireBit fun u hu => ?_
    exact .rowEnd (.inr rfl) (requireBit_eq_ok.mp (requireBit_eq_ok.mp hu).2).2

theorem ends_eoi {s t : State} (h : execEoi s = .next t) : Ends s .eoi t := by
  unfold execEoi at h
  split at h
  · refine .of_finishAdv h (trapsNamed_rleFlushBody _ s).requireBit.requireBit fun u hu => ?_
    have hbody := (requireBit_eq_ok.mp (requireBit_eq_ok.mp hu).2).2
    exact .rleFlush (.inr rfl) (requireBit_eq_ok.mp hbody).2
  · refine .of_finishAdv h (trapsNamed_ok s).requireBit.requireBit fun u hu => ?_
    obtain rfl : s = u := by simpa using (requireBit_eq_ok.mp (requireBit_eq_ok.mp hu).2).2
    exact .unchanged _

/-- Everything an executed command can do: complete with its effect, or fault with its writes discarded (R58, R244). -/
theorem exec_ends {i : Instr} {s t : State} (h : exec i s = .next t) : Ends s i t := by
  cases i with
  | nop => exact .of_respond h
  | curAlloc x =>
    refine .of_finish h ((trapsNamed_ok _).require (by simp)) fun u hu => ?_
    obtain ⟨hx, ⟨⟩⟩ := require_eq_ok.mp hu
    exact .alloc x (by simpa using hx)
  | curSeek x =>
    refine .of_finish h ((trapsNamed_ok _).require (by simp)).requireBit fun u hu => ?_
    obtain ⟨hx, ⟨⟩⟩ := require_eq_ok.mp (requireBit_eq_ok.mp hu).2
    exact .seek x (by simpa using hx)
  | curTell => exact ends_curTell h
  | curWrite n data =>
    exact .of_finish h (trapsNamed_append _ s).requireBit fun u hu => .write n data (requireBit_eq_ok.mp hu).2
  | curSlice start stop => exact ends_curSlice h
  | packA8 | packBgr565 | packBgra8888 | packAbgr6666 | packAbgr8888 | rd => exact .of_respond h
  | rleInit b => exact .of_next h (.rleInit b)
  | rlePush p =>
    refine .of_finishAdv h (trapsNamed_rlePushBody _ p s).requireBit fun u hu => ?_
    obtain ⟨hcfg, hbody⟩ := requireBit_eq_ok.mp hu
    exact .rlePush (.inl ⟨p, rfl⟩) (.inl hcfg) (requireBit_eq_ok.mp hbody).2
  | rleFlush =>
    refine .of_finishAdv h (trapsNamed_rleFlushBody _ s).requireBit fun u hu => ?_
    exact .rleFlush (.inl rfl) (requireBit_eq_ok.mp (requireBit_eq_ok.mp hu).2).2
  | rowInit b base => exact .of_next h (.rowInit b base)
  | rowPush p =>
    refine .of_finishAdv h (trapsNamed_rowPushBody _ p s).requireBit fun u hu => ?_
    obtain ⟨hcfg, hbody⟩ := requireBit_eq_ok.mp hu
    exact .rowPush (.inl ⟨p, rfl⟩) (.inl hcfg) hbody
  | rowEnd =>
    refine .of_finishAdv h (trapsNamed_rowEndBody _ s).requireBit fun u hu => ?_
    exact .rowEnd (.inl rfl) (requireBit_eq_ok.mp hu).2
  | cfg f r base => exact .of_next h (.cfg f r base)
  | pix rgba => exact ends_pix h
  | eor => exact ends_eor h
  | eoi => exact ends_eoi h

/-! ## The fields a command body leaves alone -/

/-- `s` with the cursor of `c`: POS, EXTENT and BUF. -/
def State.withCursor (s c : State) : State := { s with pos := c.pos, extent := c.extent, buf := c.buf }

/-- `s` with the encoder of `c`, its BPP apart: RLE_STATE, RLE_LAST and RAWBUF. -/
def State.withEncoder (s c : State) : State :=
  { s with rleMode := c.rleMode, rlePend := c.rlePend, rleCnt := c.rleCnt, rleLast := c.rleLast, rawBuf := c.rawBuf }

theorem append_frame {bs : List Byte} {s u : State} (h : append bs s = .ok u) : u = s.withCursor u := by
  obtain ⟨-, rfl⟩ := append_eq_ok.mp h
  rfl

theorem emitSection_frame {m : RleMode} {n : Nat} {bs : List Byte} {s u : State} (h : emitSection m n bs s = .ok u) :
    u = s.withCursor u := by
  obtain ⟨-, rfl⟩ | ⟨-, h⟩ := emitSection_eq_ok h
  · rfl
  · exact append_frame h

/-- A pushed pixel changes the cursor and the encoder only (R123 to R127). -/
theorem rlePixel_frame {p : Pixel} {s u : State} (h : rlePixel p s = .ok u) : u = (s.withCursor u).withEncoder u := by
  obtain ⟨-, -, -, t, ht, rfl⟩ | ⟨-, -, -, rfl⟩ | ⟨-, -, t, ht, rfl⟩ | ⟨-, -, -, t, ht, rfl⟩ | ⟨-, -, rfl⟩ |
    ⟨-, -, -, -, t, ht, rfl⟩ | ⟨-, -, -, -, rfl⟩ := rlePixel_eq_ok h
  · rw [emitSection_frame ht]; rfl
  · rfl
  · rw [emitSection_frame ht]; rfl
  · rw [emitSection_frame ht]; rfl
  · rfl
  · rw [emitSection_frame ht]; rfl
  · rfl

/-- The end of a pixel stream changes the cursor and the encoder only (R128). -/
theorem rleFinish_frame {s u : State} (h : rleFinish s = .ok u) : u = (s.withCursor u).withEncoder u := by
  obtain ⟨-, t, ht, rfl⟩ | ⟨-, -, t, ht, rfl⟩ | ⟨-, -, t, ht, rfl⟩ := rleFinish_eq_ok h
  all_goals rw [emitSection_frame ht]; rfl

/-- `s` with the data of `c`: the cursor, the encoder and the row unit's last pixel, everything but capacity and setup. -/
def State.withData (s c : State) : State :=
  { (s.withCursor c).withEncoder c with rowLast := c.rowLast, rowLastv := c.rowLastv }

/-- A command that completes either allocates or sets up a unit, or it changes data only. -/
theorem Effect.setup_or_data {i : Instr} {s u : State} (h : Effect s i u) :
    (∃ x, i = .curAlloc x ∧ x.toNat ≤ Config.capMax ∧ u = s.allocate x) ∨
    (∃ b, i = .rleInit b ∧ u = { s.rleSetup b with encCfg := false }) ∨
    (∃ b base, i = .rowInit b base ∧ u = { s.rowSetup b base with encCfg := false }) ∨
    (∃ f r base, i = .cfg f r base ∧
      u = { (s.rleSetup (bpm1Of f)).rowSetup (bpm1Of f) base with encFmt := f, encRle := r, encCfg := true }) ∨
    u = s.withData u := by
  cases h with
  | alloc x hx => exact .inl ⟨x, rfl, hx, rfl⟩
  | rleInit b => exact .inr (.inl ⟨b, rfl, rfl⟩)
  | rowInit b base => exact .inr (.inr (.inl ⟨b, base, rfl, rfl⟩))
  | cfg f r base => exact .inr (.inr (.inr (.inl ⟨f, r, base, rfl, rfl⟩)))
  | unchanged | seek => exact .inr (.inr (.inr (.inr rfl)))
  | write n data h => refine .inr (.inr (.inr (.inr ?_))); rw [append_frame h]; rfl
  | rlePush _ _ h => refine .inr (.inr (.inr (.inr ?_))); rw [rlePixel_frame h]; rfl
  | rleFlush _ h => refine .inr (.inr (.inr (.inr ?_))); rw [rleFinish_frame h]; rfl
  | rowPush _ _ h => refine .inr (.inr (.inr (.inr ?_))); obtain ⟨-, -, rfl⟩ := rowPushBody_eq_ok.mp h; rfl
  | rowEnd _ h => refine .inr (.inr (.inr (.inr ?_))); obtain ⟨-, -, -, rfl⟩ := rowEndBody_eq_ok.mp h; rfl

/-- No command that completes writes the fault registers or the port's part-received command. -/
theorem Effect.ports_eq {i : Instr} {s u : State} (h : Effect s i u) :
    u.fault = s.fault ∧ u.cause = s.cause ∧ u.finfo = s.finfo ∧ u.part = s.part := by
  obtain ⟨_, -, -, rfl⟩ | ⟨_, -, rfl⟩ | ⟨_, _, -, rfl⟩ | ⟨_, _, _, -, rfl⟩ | hdata := h.setup_or_data
  · exact ⟨rfl, rfl, rfl, rfl⟩
  · exact ⟨rfl, rfl, rfl, rfl⟩
  · exact ⟨rfl, rfl, rfl, rfl⟩
  · exact ⟨rfl, rfl, rfl, rfl⟩
  · rw [hdata]; exact ⟨rfl, rfl, rfl, rfl⟩

/-! ## The cases of a step -/

/-- While a command's words are missing, one more word completes at most what is asked for (R70, R80). -/
theorem operandCount_snoc {o : Opc} {w x : Word} {ops : List Word} (h : ops.length < operandCount o w ops) :
    ops.length + 1 ≤ operandCount o w (ops ++ [x]) := by
  unfold operandCount at *
  cases hf : o.format <;> simp only [hf] at h ⊢ <;> try omega
  cases ops with
  | nil => exact Nat.le_add_right 1 _
  | cons n ops => exact h

/-- A command word with at most the words it asks for leaves no word over. -/
theorem decode_leaves_none {o : Opc} {w : Word} {more : List Word} (ho : Opc.ofByte (opcField w) = some o)
    (hn : more.length ≤ operandCount o w more) :
    decode (w :: more) = .incomplete ∨ (∃ e cw, decode (w :: more) = .rejected e cw []) ∨
      ∃ i, decode (w :: more) = .command i [] := by
  obtain hlt | heq := Nat.lt_or_eq_of_le hn
  · exact .inl (decode_incomplete ho hlt)
  · rw [decode_complete ho heq.ge, ← heq, List.drop_length]
    split
    · exact .inr (.inl ⟨_, _, rfl⟩)
    · exact .inr (.inr ⟨_, rfl⟩)

/-- A non-empty word sequence that is no whole command is a defined opcode with words missing (R70). -/
theorem incomplete_cons {w : Word} {more : List Word} (h : decode (w :: more) = .incomplete) :
    ∃ o, Opc.ofByte (opcField w) = some o ∧ more.length < operandCount o w more := by
  cases ho : Opc.ofByte (opcField w) with
  | none => simp [decode_undefined more ho] at h
  | some o =>
    refine ⟨o, rfl, Nat.lt_of_not_le fun hn => ?_⟩
    rw [decode_complete ho hn] at h
    split at h <;> cases h

/-- The word that completes a command is its last: nothing is left over (R37, R70). -/
theorem decode_snoc {ws : List Word} (x : Word) (h : decode ws = .incomplete) :
    decode (ws ++ [x]) = .incomplete ∨ (∃ e cw, decode (ws ++ [x]) = .rejected e cw []) ∨
      ∃ i, decode (ws ++ [x]) = .command i [] := by
  cases ws with
  | nil =>
    cases ho : Opc.ofByte (opcField x) with
    | none => exact .inr (.inl ⟨_, _, decode_undefined [] ho⟩)
    | some o => exact decode_leaves_none ho (Nat.zero_le _)
  | cons w more =>
    obtain ⟨o, ho, hlt⟩ := incomplete_cons h
    refine decode_leaves_none ho ?_
    exact (List.length_append ..).trans_le (operandCount_snoc hlt)

/-- Everything one step can do (R70, R245, R250, R270). -/
inductive Steps (s : State) : State → Prop
  /-- Nothing arrives, a response word is taken, or a word is dropped in the fault state. -/
  | quiet (evs : List PortEvent) (ws : List Word) : Steps s { s with input := evs, rsp := ws }
  | resets (evs : List PortEvent) : Steps s { State.reset with input := evs }
  | waits (evs : List PortEvent) (w : Word) (hf : s.fault = false) (hd : decode (s.part ++ [w]) = .incomplete) :
      Steps s { s with input := evs, part := s.part ++ [w] }
  | rejects (evs : List PortEvent) (w : Word) {e : DecodeError} {cw : Word} {rest : List Word} (hf : s.fault = false)
      (hd : decode (s.part ++ [w]) = .rejected e cw rest) :
      Steps s (State.takeFault { s with input := evs, part := rest } cw ⟨causeOf e, cw⟩)
  | runs (evs : List PortEvent) (w : Word) {i : Instr} {rest : List Word} {t : State} (hf : s.fault = false)
      (hd : decode (s.part ++ [w]) = .command i rest) (hx : exec i { s with input := evs, part := rest } = .next t) :
      Steps s t

theorem steps_of_acceptWord {w : Word} {evs : List PortEvent} {s t : State}
    (h : acceptWord w { s with input := evs } = .next t) : Steps s t := by
  unfold acceptWord at h
  split at h
  · cases h
    exact .quiet evs s.rsp
  · rename_i hf
    have hf : s.fault = false := by simpa using hf
    split at h
    · rename_i hd
      cases h
      exact .waits evs w hf hd
    · rename_i hd
      cases h
      exact .rejects evs w hf hd
    · rename_i hd
      exact .runs evs w hf hd h

theorem steps_of_next {s t : State} (h : step s = .next t) : Steps s t := by
  unfold step handleEvent at h
  split at h
  · cases h
    exact .quiet s.input s.rsp
  · exact steps_of_acceptWord h
  · cases h
    exact .resets _
  · cases h
    exact .quiet _ _

end Sys2Proof.Machine
end

section
/-! PROOF. The invariants hold after reset, and every step keeps them: unit by unit over the effects of commands, then over the
cases of a step. -/

namespace Sys2Proof.Machine

/-! ## The fields each invariant speaks of -/

theorem State.CursorInv.congr {s t : State} (hs : s.CursorInv)
    (h : (t.ca, t.cap, t.pos, t.extent, t.buf) = (s.ca, s.cap, s.pos, s.extent, s.buf)) : t.CursorInv := by
  simp only [Prod.mk.injEq] at h
  obtain ⟨hca, hcap, hpos, hextent, hbuf⟩ := h
  obtain ⟨h1, h2, h3, h4, h5⟩ := hs
  constructor <;> simpa only [hca, hcap, hpos, hextent, hbuf]

theorem State.RleInv.congr {s t : State} (hs : s.RleInv)
    (h : (t.rleCfg, t.rleBpm1, t.rleMode, t.rlePend, t.rleCnt, t.rleLast, t.rawBuf) =
      (s.rleCfg, s.rleBpm1, s.rleMode, s.rlePend, s.rleCnt, s.rleLast, s.rawBuf)) : t.RleInv := by
  simp only [Prod.mk.injEq] at h
  obtain ⟨hcfg, hbpm1, hmode, hpend, hcnt, hlast, hraw⟩ := h
  obtain ⟨h1, h2, h3, h4, h5⟩ := hs
  simp only [State.isIdle, State.isRaw, State.isCompress, State.lastPixel] at h1 h4 h5
  constructor <;>
    simpa only [State.isIdle, State.isRaw, State.isCompress, State.lastPixel, hcfg, hbpm1, hmode, hpend, hcnt, hlast, hraw]

theorem State.RowInv.congr {s t : State} (hs : s.RowInv)
    (h : (t.rowCfg, t.rowBase, t.rowLastv, t.rowBpm1, t.rowLast) = (s.rowCfg, s.rowBase, s.rowLastv, s.rowBpm1, s.rowLast)) :
    t.RowInv := by
  simp only [Prod.mk.injEq] at h
  obtain ⟨hcfg, hbase, hlastv, hbpm1, hlast⟩ := h
  obtain ⟨h1, h2⟩ := hs
  constructor <;> simpa only [hcfg, hbase, hlastv, hbpm1, hlast]

/-- The port's lists may change as long as no whole command waits, and none at all in the fault state (R37, R245). -/
theorem State.Inv.withPorts {s : State} (hs : s.Inv) (evs : List PortEvent) (ws part : List Word)
    (hp : decode part = .incomplete) (hf : s.fault = true → part = []) :
    { s with input := evs, rsp := ws, part := part }.Inv where
  cursor := hs.cursor.congr rfl
  rle := hs.rle.congr rfl
  row := hs.row.congr rfl
  front := hs.front
  faults := ⟨hs.faults.running, fun h => ⟨(hs.faults.faulted h).1, hf h⟩⟩
  port := hp

/-! ## The cursor -/

/-- Every write of POS stays inside CAP (R26, R27). -/
theorem State.CursorInv.moveTo {s : State} {p : Nat} (hs : s.CursorInv) (hp : p ≤ s.cap.toNat) : (s.moveTo p).CursorInv := by
  have hpos : (s.moveTo p).pos.toNat = p := toNat_ofNat_of_le hp
  have hextent : (s.moveTo p).extent.toNat = max s.extent.toNat p := toNat_ofNat_of_le (max_le hs.extent_le_cap hp)
  exact
    { pos_le_extent := by rw [hpos, hextent]; exact le_max_right _ _
      extent_le_cap := by rw [hextent]; exact max_le hs.extent_le_cap hp
      buf_canonical := hs.buf_canonical
      buf_inside := hs.buf_inside
      unallocated := hs.unallocated }

/-- A write at POS that ends inside CAP keeps BUF canonical and inside CAP (R28, R108). -/
theorem State.CursorInv.writeAt {s : State} {bs : List Byte} {stop : Nat} (hs : s.CursorInv)
    (hbs : s.pos.toNat + bs.length ≤ stop) (hstop : stop ≤ s.cap.toNat) : (s.writeAt bs stop).CursorInv := by
  refine State.CursorInv.moveTo (s := { s with buf := Memory.writeAll s.buf s.pos.toNat bs }) ?_ hstop
  exact
    { pos_le_extent := hs.pos_le_extent
      extent_le_cap := hs.extent_le_cap
      buf_canonical := Memory.wf_writeAll _ _ hs.buf_canonical
      buf_inside := fun c hc => (Memory.mem_writeAll hc).elim (fun h => by show c.1 < s.cap.toNat; omega) (hs.buf_inside c)
      unallocated := hs.unallocated }

theorem State.CursorInv.append {bs : List Byte} {s u : State} (hs : s.CursorInv) (h : append bs s = .ok u) : u.CursorInv := by
  obtain ⟨hfits, rfl⟩ := append_eq_ok.mp h
  exact hs.writeAt le_rfl hfits

theorem State.CursorInv.emitSection {m : RleMode} {n : Nat} {bs : List Byte} {s u : State} (hs : s.CursorInv)
    (h : emitSection m n bs s = .ok u) : u.CursorInv := by
  obtain ⟨-, rfl⟩ | ⟨-, h⟩ := emitSection_eq_ok h
  · exact hs
  · exact hs.append h

theorem State.CursorInv.rlePixel {p : Pixel} {s u : State} (hs : s.CursorInv) (h : rlePixel p s = .ok u) : u.CursorInv := by
  have hcommit : s.commitPending.CursorInv := hs.congr rfl
  obtain ⟨-, -, -, t, ht, rfl⟩ | ⟨-, -, -, rfl⟩ | ⟨-, -, t, ht, rfl⟩ | ⟨-, -, -, t, ht, rfl⟩ | ⟨-, -, rfl⟩ |
    ⟨-, -, -, -, t, ht, rfl⟩ | ⟨-, -, -, -, rfl⟩ := rlePixel_eq_ok h
  · exact (hs.emitSection ht).congr rfl
  · exact hs.congr rfl
  · exact (hs.emitSection ht).congr rfl
  · exact (hs.emitSection ht).congr rfl
  · exact hs.congr rfl
  · exact (hcommit.emitSection ht).congr rfl
  · exact hs.congr rfl

theorem State.CursorInv.rleFinish {s u : State} (hs : s.CursorInv) (h : rleFinish s = .ok u) : u.CursorInv := by
  have hcommit : s.commitPending.CursorInv := hs.congr rfl
  obtain ⟨-, t, ht, rfl⟩ | ⟨-, -, t, ht, rfl⟩ | ⟨-, -, t, ht, rfl⟩ := rleFinish_eq_ok h
  · exact (hs.emitSection ht).congr rfl
  · exact (hs.emitSection ht).congr rfl
  · exact (hcommit.emitSection ht).congr rfl

/-- CUR_ALLOC gives an empty cursor over a zeroed buffer (R101). -/
theorem cursorInv_allocate (s : State) (x : Word) : (s.allocate x).CursorInv where
  pos_le_extent := Nat.le_refl 0
  extent_le_cap := Nat.zero_le _
  buf_canonical := rfl
  buf_inside := fun _ h => nomatch h
  unallocated := fun h => nomatch h

theorem Effect.cursorInv {i : Instr} {s u : State} (h : Effect s i u) (hs : s.CursorInv) : u.CursorInv := by
  cases h with
  | unchanged => exact hs
  | alloc x => exact cursorInv_allocate s x
  | seek x hx => exact hs.moveTo hx
  | write n data h => exact hs.append h
  | rleInit | rowInit | cfg => exact hs.congr rfl
  | rlePush _ _ h => exact hs.rlePixel h
  | rleFlush _ h => exact hs.rleFinish h
  | rowPush _ _ h =>
    obtain ⟨-, hfits, rfl⟩ := rowPushBody_eq_ok.mp h
    exact (hs.writeAt (by rw [pixelOf_length]) hfits).congr rfl
  | rowEnd _ h =>
    obtain ⟨-, -, hfits, rfl⟩ := rowEndBody_eq_ok.mp h
    refine (hs.writeAt ?_ hfits).congr rfl
    rw [State.rowLastPixel, pixelOf_length]
    exact Nat.le_add_right _ _

/-! ## The run-length encoder -/

/-- A pixel that differs from the last one keeps adjacent pixels different (R133). -/
theorem adjacentDiffer_snoc {p q : Pixel} (hpq : p ≠ q) :
    ∀ {ps : List Pixel}, adjacentDiffer (ps ++ [p]) = true → adjacentDiffer (ps ++ [p] ++ [q]) = true
  | [], _ => by simp [adjacentDiffer, hpq]
  | [a], h => by simpa [adjacentDiffer, hpq] using h
  | a :: b :: ps, h => by
    simp only [List.cons_append, adjacentDiffer, Bool.and_eq_true] at h ⊢
    exact ⟨h.1, by simpa using adjacentDiffer_snoc hpq (ps := b :: ps) h.2⟩

/-- The Idle state, at whatever BPP the encoder has (R33). -/
theorem State.RleInv.rleIdle {s : State} (hs : s.RleInv) : s.rleIdle.RleInv where
  three_states := .inl ⟨rfl, rfl, rfl, rfl, rfl⟩
  pixel_widths := fun _ h => nomatch h
  last_fits := Nat.two_pow_pos _
  adjacent := fun h => nomatch h.2.1
  unconfigured := fun h => ⟨⟨rfl, rfl, rfl, rfl, rfl⟩, (hs.unconfigured h).2⟩

/-- A pixel register that holds a pixel gives it back (R11, R31). -/
theorem lastPixel_setPending {s : State} {p : Pixel} (hp : p.length = bppOf s.rleBpm1) : (s.setPending p).lastPixel = p :=
  pixelOf_fromLE hp (bppOf_le _)

/-- One pixel pending before an empty section (R33, R125). -/
theorem rleInv_first_pending {s : State} {p : Pixel} (hcfg : s.rleCfg = true) (hp : p.length = bppOf s.rleBpm1) :
    (s.rleIdle.setPending p).RleInv where
  three_states := .inr (.inl ⟨rfl, rfl, Nat.zero_le _, rfl⟩)
  pixel_widths := fun _ h => nomatch h
  last_fits := fromLE_fits hp
  adjacent := fun _ => rfl
  unconfigured := fun h => nomatch hcfg.symm.trans h

theorem State.RleInv.isCompress_of_mode {s : State} (hs : s.RleInv) (hm : s.rleMode = .compress) : s.isCompress := by
  obtain h | h | h := hs.three_states
  · exact nomatch hm.symm.trans h.1
  · exact nomatch hm.symm.trans h.1
  · exact h

theorem State.RleInv.isIdle_of_mode {s : State} (hs : s.RleInv) (hm : s.rleMode = .raw) (hp : s.rlePend = false) : s.isIdle := by
  obtain h | h | h := hs.three_states
  · exact h
  · exact nomatch hp.symm.trans h.2.1
  · exact nomatch hm.symm.trans h.1

theorem State.RleInv.isRaw_of_pending {s : State} (hs : s.RleInv) (hp : s.rlePend = true) : s.isRaw := by
  obtain h | h | h := hs.three_states
  · exact nomatch hp.symm.trans h.2.1
  · exact h
  · exact nomatch hp.symm.trans h.2.1

/-- CNT does not wrap below its bound (R33; log entry 10). -/
theorem rleCnt_succ_toNat {c : BitVec 7} (h : c.toNat ≤ 126) : (c + 1).toNat = c.toNat + 1 := by
  simp only [BitVec.toNat_add, BitVec.ofNat_eq_ofNat, BitVec.toNat_ofNat]
  omega

/-- The run continues below the bound (R124). -/
theorem State.RleInv.count {s : State} (hs : s.RleInv) (hcfg : s.rleCfg = true) (hm : s.rleMode = .compress)
    (hc : (s.rleCnt + 1).toNat ≠ maxCount) : { s with rleCnt := s.rleCnt + 1 }.RleInv := by
  obtain ⟨-, hpend, hlo, hhi, hraw⟩ := hs.isCompress_of_mode hm
  have hcnt := rleCnt_succ_toNat hhi
  rw [hcnt, maxCount] at hc
  exact
    { three_states := .inr (.inr ⟨hm, hpend, by show 2 ≤ (s.rleCnt + 1).toNat; omega,
        by show (s.rleCnt + 1).toNat ≤ 126; omega, hraw⟩)
      pixel_widths := hs.pixel_widths
      last_fits := hs.last_fits
      adjacent := fun h => (nomatch hpend.symm.trans h.2.1)
      unconfigured := fun h => (nomatch hcfg.symm.trans h) }

/-- A run starts with the pending pixel counted twice (R126). -/
theorem State.RleInv.startRun {s : State} (hs : s.RleInv) (hcfg : s.rleCfg = true) :
    { s with rawBuf := [], rleMode := .compress, rleCnt := 2, rlePend := false }.RleInv where
  three_states := .inr (.inr ⟨rfl, rfl, by simp, by simp, rfl⟩)
  pixel_widths := fun _ h => nomatch h
  last_fits := hs.last_fits
  adjacent := fun h => nomatch h.1
  unconfigured := fun h => nomatch hcfg.symm.trans h

/-- The pending pixel joins the raw section and a different one becomes pending (R127, R133). -/
theorem State.RleInv.commit {s : State} {p : Pixel} (hs : s.RleInv) (hcfg : s.rleCfg = true) (hpend : s.rlePend = true)
    (hp : p.length = bppOf s.rleBpm1) (hne : p ≠ s.lastPixel) (hc : s.commitPending.rleCnt.toNat ≠ maxCount) :
    (s.commitPending.setPending p).RleInv := by
  have hadjacent := hs.adjacent (hs.isRaw_of_pending hpend)
  obtain ⟨hm, -, hhi, hlen⟩ := hs.isRaw_of_pending hpend
  have hcnt : s.commitPending.rleCnt.toNat = s.rleCnt.toNat + 1 := rleCnt_succ_toNat hhi
  rw [hcnt, maxCount] at hc
  have hlen' : (s.rawBuf ++ [s.lastPixel]).length = s.rleCnt.toNat + 1 := by rw [List.length_append, hlen]; rfl
  have hlast : (s.commitPending.setPending p).lastPixel = p := lastPixel_setPending (s := s.commitPending) hp
  exact
    { three_states := .inr (.inl ⟨hm, rfl, by show s.commitPending.rleCnt.toNat ≤ 126; omega, hlen'.trans hcnt.symm⟩)
      pixel_widths := by
        intro q hq
        obtain hq | hq := List.mem_append.mp hq
        · exact hs.pixel_widths q hq
        · rw [List.mem_singleton.mp hq]
          exact pixelOf_length _ _
      last_fits := fromLE_fits hp
      adjacent := by
        intro _
        rw [hlast]
        exact adjacentDiffer_snoc hne.symm hadjacent
      unconfigured := fun h => (nomatch hcfg.symm.trans h) }

/-- Every branch of RLE_PUSH leads to one of the three states of R33 (R124 to R127). -/
theorem State.RleInv.rlePixel {p : Pixel} {s u : State} (hs : s.RleInv) (hcfg : s.rleCfg = true)
    (hp : p.length = bppOf s.rleBpm1) (h : rlePixel p s = .ok u) : u.RleInv := by
  have hfirst := rleInv_first_pending hcfg hp
  obtain ⟨-, -, -, t, ht, rfl⟩ | ⟨hm, -, hc, rfl⟩ | ⟨-, -, t, ht, rfl⟩ | ⟨-, -, -, t, ht, rfl⟩ | ⟨hm, hpend, rfl⟩ |
    ⟨hm, -, -, -, t, ht, rfl⟩ | ⟨-, hpend, hne, hc, rfl⟩ := rlePixel_eq_ok h
  · rw [emitSection_frame ht]
    exact hs.rleIdle.congr rfl
  · exact hs.count hcfg hm hc
  · rw [emitSection_frame ht]
    exact hfirst.congr rfl
  · rw [emitSection_frame ht]
    exact (hs.startRun hcfg).congr rfl
  · obtain ⟨-, -, hcnt, hraw, -⟩ := hs.isIdle_of_mode hm hpend
    refine hfirst.congr ?_
    simp [hm, hcnt, hraw]
  · rw [emitSection_frame ht]
    refine hfirst.congr ?_
    simp [State.withCursor, hm]
  · exact hs.commit hcfg hpend hp hne hc

/-- A flush ends in Idle (R128). -/
theorem State.RleInv.rleFinish {s u : State} (hs : s.RleInv) (h : rleFinish s = .ok u) : u.RleInv := by
  obtain ⟨-, t, ht, rfl⟩ | ⟨-, -, t, ht, rfl⟩ | ⟨-, -, t, ht, rfl⟩ := rleFinish_eq_ok h
  all_goals
    rw [emitSection_frame ht]
    exact hs.rleIdle.congr rfl

/-- RLE_INIT and CFG leave an empty encoder (R122). -/
theorem rleInv_rleSetup (s : State) (b : BitVec 2) : (s.rleSetup b).RleInv where
  three_states := .inl ⟨rfl, rfl, rfl, rfl, rfl⟩
  pixel_widths := fun _ h => nomatch h
  last_fits := Nat.two_pow_pos _
  adjacent := fun h => nomatch h.2.1
  unconfigured := fun h => nomatch h

theorem Effect.rleInv {i : Instr} {s u : State} (h : Effect s i u) (hs : s.RleInv) (hf : s.FrontInv) : u.RleInv := by
  cases h with
  | unchanged => exact hs
  | alloc | seek | rowInit => exact hs.congr rfl
  | write n data h =>
    rw [append_frame h]
    exact hs.congr rfl
  | rleInit b => exact (rleInv_rleSetup s b).congr rfl
  | cfg f r base => exact (rleInv_rleSetup s (bpm1Of f)).congr rfl
  | rlePush _ hcfg h => exact hs.rlePixel (hcfg.elim id fun henc => (hf henc).1) (pixelOf_length _ _) h
  | rleFlush _ h => exact hs.rleFinish h
  | rowPush _ _ h =>
    obtain ⟨-, -, rfl⟩ := rowPushBody_eq_ok.mp h
    exact hs.congr rfl
  | rowEnd _ h =>
    obtain ⟨-, -, -, rfl⟩ := rowEndBody_eq_ok.mp h
    exact hs.congr rfl

/-! ## The row unit -/

/-- A configured row unit with no pixel in its row (R170). -/
theorem rowInv_rowSetup (s : State) (b : BitVec 2) (base : Word) : (s.rowSetup b base).RowInv :=
  ⟨fun h => (nomatch h), fun h => (nomatch h)⟩

theorem Effect.rowInv {i : Instr} {s u : State} (h : Effect s i u) (hs : s.RowInv) (hf : s.FrontInv) : u.RowInv := by
  cases h with
  | unchanged => exact hs
  | alloc | seek | rleInit => exact hs.congr rfl
  | write n data h =>
    rw [append_frame h]
    exact hs.congr rfl
  | rowInit b base => exact (rowInv_rowSetup s b base).congr rfl
  | cfg f r base => exact (rowInv_rowSetup s (bpm1Of f) base).congr rfl
  | rlePush _ _ h =>
    rw [rlePixel_frame h]
    exact hs.congr rfl
  | rleFlush _ h =>
    rw [rleFinish_frame h]
    exact hs.congr rfl
  | rowPush _ hcfg h =>
    have hcfg : s.rowCfg = true := hcfg.elim id fun henc => (hf henc).2.1
    obtain ⟨-, -, rfl⟩ := rowPushBody_eq_ok.mp h
    exact ⟨fun _ => fromLE_fits (pixelOf_length _ _), fun h => (nomatch hcfg.symm.trans h)⟩
  | rowEnd _ h =>
    obtain ⟨-, -, -, rfl⟩ := rowEndBody_eq_ok.mp h
    exact ⟨fun h => (nomatch h), fun h => ⟨rfl, (hs.unconfigured h).2⟩⟩

/-! ## The front end -/

/-- CFG gives both units the format's BPP; whatever else gives a unit a BPP clears ENC_CFG (R194). -/
theorem Effect.frontInv {i : Instr} {s u : State} (h : Effect s i u) (hf : s.FrontInv) : u.FrontInv := by
  obtain ⟨_, -, -, rfl⟩ | ⟨_, -, rfl⟩ | ⟨_, _, -, rfl⟩ | ⟨_, _, _, -, rfl⟩ | hdata := h.setup_or_data
  · exact hf
  · exact fun h => nomatch h
  · exact fun h => nomatch h
  · exact fun _ => ⟨rfl, rfl, rfl, rfl⟩
  · rw [hdata]; exact hf

/-! ## The whole block -/

theorem Effect.inv {i : Instr} {s u : State} (h : Effect s i u) (hs : s.Inv) : u.Inv := by
  obtain ⟨hfault, hcause, hfinfo, hpart⟩ := h.ports_eq
  refine ⟨h.cursorInv hs.cursor, h.rleInv hs.rle hs.front, h.rowInv hs.row hs.front, h.frontInv hs.front, ?faults, ?port⟩
  case faults =>
    obtain ⟨hrun, hflt⟩ := hs.faults
    constructor <;> simpa only [hfault, hcause, hfinfo, hpart]
  case port =>
    rw [State.PartInv, hpart]
    exact hs.port

/-- The fault state keeps the units as they were before the command (R244). -/
theorem State.Inv.takeFault {s : State} {w : Word} {tr : Trap} (hs : s.Inv) (htr : tr.cause ≠ .none) (hpart : s.part = []) :
    (s.takeFault w tr).Inv where
  cursor := hs.cursor.congr rfl
  rle := hs.rle.congr rfl
  row := hs.row.congr rfl
  front := hs.front
  faults := ⟨fun h => (nomatch h), fun _ => ⟨htr, hpart⟩⟩
  port := hs.port

theorem State.Inv.exec {i : Instr} {s t : State} (hs : s.Inv) (hpart : s.part = []) (h : exec i s = .next t) : t.Inv := by
  cases exec_ends h with
  | completes ws he =>
    have hu := he.inv hs
    exact hu.withPorts _ _ _ hu.port fun hf => (hu.faults.faulted hf).2
  | faults w htr => exact hs.takeFault htr hpart

theorem causeOf_ne_none (e : DecodeError) : causeOf e ≠ .none := by
  cases e <;> simp [causeOf]

/-- Settles O50: every register is 0, so each invariant holds at once. -/
theorem resetSatisfiesInvariant : Obligations.ResetSatisfiesInvariant := by
  unfold Obligations.ResetSatisfiesInvariant
  exact
    { cursor := ⟨by decide, by decide, by decide, by decide, by decide⟩
      rle := ⟨.inl ⟨rfl, rfl, rfl, rfl, rfl⟩, by decide, by decide, fun h => (nomatch h.2.1),
        fun _ => ⟨⟨rfl, rfl, rfl, rfl, rfl⟩, rfl⟩⟩
      row := ⟨fun h => (nomatch h), fun _ => ⟨rfl, rfl, rfl, rfl⟩⟩
      front := fun h => (nomatch h)
      faults := ⟨fun _ => ⟨rfl, rfl⟩, fun h => (nomatch h)⟩
      port := rfl }

/-- Settles O51, case by case over what arrives; the words of a command are used up when it runs or is rejected. -/
theorem stepKeepsInvariant : Obligations.StepKeepsInvariant := by
  unfold Obligations.StepKeepsInvariant
  intro s t hs h
  have hempty (evs : List PortEvent) : { s with input := evs, part := [] }.Inv := hs.withPorts evs s.rsp [] rfl fun _ => rfl
  cases steps_of_next h with
  | quiet evs ws => exact hs.withPorts evs ws s.part hs.port fun hf => (hs.faults.faulted hf).2
  | resets evs => exact resetSatisfiesInvariant.withPorts evs [] [] rfl fun _ => rfl
  | waits evs w hf hd => exact hs.withPorts evs s.rsp _ hd fun hf' => (nomatch hf.symm.trans hf')
  | @rejects evs w e cw rest hf hd =>
    obtain rfl : rest = [] := by simpa [hd, eq_comm] using decode_snoc w hs.port
    exact (hempty evs).takeFault (causeOf_ne_none e) rfl
  | @runs evs w i rest _ hf hd hx =>
    obtain rfl : rest = [] := by simpa [hd, eq_comm] using decode_snoc w hs.port
    exact (hempty evs).exec rfl hx

end Sys2Proof.Machine
end

section
/-! PROOF. Which commands write which register: CAP, the configuration bits of STATUS, and every row of R21's table. -/

namespace Sys2Proof.Machine

/-! ## CAP -/

theorem Effect.cap_cases {i : Instr} {s u : State} (h : Effect s i u) :
    u.cap = s.cap ∨ ∃ x, i = .curAlloc x ∧ u.cap = x ∧ x.toNat ≤ Config.capMax := by
  obtain ⟨x, hi, hx, rfl⟩ | ⟨_, -, rfl⟩ | ⟨_, _, -, rfl⟩ | ⟨_, _, _, -, rfl⟩ | hdata := h.setup_or_data
  · exact .inr ⟨x, hi, rfl, hx⟩
  · exact .inl rfl
  · exact .inl rfl
  · exact .inl rfl
  · rw [hdata]; exact .inl rfl

/-- Only CUR_ALLOC changes CAP, and never to more than CAP_MAX (R25, R101). -/
theorem exec_cap_cases {i : Instr} {s t : State} (h : exec i s = .next t) :
    t.cap = s.cap ∨ ∃ x, i = .curAlloc x ∧ t.cap = x ∧ x.toNat ≤ Config.capMax := by
  cases exec_ends h with
  | completes ws he => exact he.cap_cases
  | faults w htr => exact .inl rfl

theorem State.CapInv.step {s t : State} (hs : s.CapInv) (h : step s = .next t) : t.CapInv := by
  cases steps_of_next h with
  | quiet | waits | rejects => exact hs
  | resets => exact Nat.zero_le _
  | runs evs w hf hd hx =>
    unfold State.CapInv at *
    obtain hcap | ⟨x, -, rfl, hx⟩ := exec_cap_cases hx
    · rwa [hcap]
    · exact hx

/-- Settles O53: reset leaves CAP 0, and the only command that writes it checks its operand. -/
theorem capStaysWithinCapMax : Obligations.CapStaysWithinCapMax := by
  unfold Obligations.CapStaysWithinCapMax
  refine ⟨Nat.zero_le _, fun s t hs h => hs.step h, fun i s t h hne => ?_⟩
  obtain hcap | ⟨x, hi, -, -⟩ := exec_cap_cases h
  · exact absurd hcap hne
  · exact ⟨x, hi⟩

/-! ## The configuration bits -/

/-- CA, RLE_CFG, ROW_CFG and ENC_CFG, the configuration bits of STATUS (R22). -/
def State.configBits (s : State) : Bool × Bool × Bool × Bool := (s.ca, s.rleCfg, s.rowCfg, s.encCfg)

/-- What each command makes of the configuration bits (R22). -/
theorem exec_configBits_cases {i : Instr} {s t : State} (h : exec i s = .next t) :
    t.configBits = s.configBits ∨
    ((∃ x, i = .curAlloc x) ∧ t.configBits = (true, s.rleCfg, s.rowCfg, s.encCfg)) ∨
    ((∃ b, i = .rleInit b) ∧ t.configBits = (s.ca, true, s.rowCfg, false)) ∨
    ((∃ b x, i = .rowInit b x) ∧ t.configBits = (s.ca, s.rleCfg, true, false)) ∨
    ((∃ f r b, i = .cfg f r b) ∧ t.configBits = (s.ca, true, true, true)) := by
  cases exec_ends h with
  | completes ws he =>
    obtain ⟨x, hi, -, rfl⟩ | ⟨b, hi, rfl⟩ | ⟨b, base, hi, rfl⟩ | ⟨f, r, base, hi, rfl⟩ | hdata := he.setup_or_data
    · exact .inr (.inl ⟨⟨x, hi⟩, rfl⟩)
    · exact .inr (.inr (.inl ⟨⟨b, hi⟩, rfl⟩))
    · exact .inr (.inr (.inr (.inl ⟨⟨b, base, hi⟩, rfl⟩)))
    · exact .inr (.inr (.inr (.inr ⟨⟨f, r, base, hi⟩, rfl⟩)))
    · rw [hdata]; exact .inl rfl
  | faults w htr => exact .inl rfl

/-- Settles O55, row by row of what a command makes of the four bits. -/
theorem configurationBitTransitions : Obligations.ConfigurationBitTransitions := by
  unfold Obligations.ConfigurationBitTransitions
  intro i s t h
  have hcases := exec_configBits_cases h
  simp only [State.configBits, Prod.mk.injEq] at hcases
  obtain ⟨hca, hrle, hrow, henc⟩ | ⟨hi, hca, hrle, hrow, henc⟩ | ⟨hi, hca, hrle, hrow, henc⟩ | ⟨hi, hca, hrle, hrow, henc⟩ |
    ⟨hi, hca, hrle, hrow, henc⟩ := hcases
  · exact ⟨(absurd hca ·), (absurd hrle ·), (absurd hrow ·), (absurd henc ·)⟩
  · exact ⟨fun _ => ⟨hca, hi⟩, (absurd hrle ·), (absurd hrow ·), (absurd henc ·)⟩
  · exact ⟨(absurd hca ·), fun _ => ⟨hrle, .inl hi⟩, (absurd hrow ·), fun _ => .inr ⟨henc, .inl hi⟩⟩
  · exact ⟨(absurd hca ·), (absurd hrle ·), fun _ => ⟨hrow, .inl hi⟩, fun _ => .inr ⟨henc, .inr hi⟩⟩
  · exact ⟨(absurd hca ·), fun _ => ⟨hrle, .inr hi⟩, fun _ => ⟨hrow, .inr hi⟩, fun _ => .inl ⟨henc, hi⟩⟩

/-! ## The registers -/

@[simp] theorem readReg_respond (s : State) (ws : List Word) (r : Reg) : (s.respond ws).readReg r = s.readReg r := by
  cases r <;> rfl

/-- A fault writes STATUS, CAUSE and FINFO only (R244). -/
theorem takeFault_writes {s : State} {w : Word} {tr : Trap} {r : Reg} (h : (s.takeFault w tr).readReg r ≠ s.readReg r) :
    r = .status ∨ r = .cause ∨ r = .finfo := by
  cases r with
  | status => exact .inl rfl
  | cause => exact .inr (.inl rfl)
  | finfo => exact .inr (.inr rfl)
  | _ => exact absurd rfl h

theorem withCursor_writes {s c : State} {r : Reg} (h : (s.withCursor c).readReg r ≠ s.readReg r) : r = .pos ∨ r = .extent := by
  cases r with
  | pos => exact .inl rfl
  | extent => exact .inr rfl
  | _ => exact absurd rfl h

theorem withEncoder_writes {s c : State} {r : Reg} (h : (s.withEncoder c).readReg r ≠ s.readReg r) :
    r = .rleState ∨ r = .rleLast := by
  cases r with
  | rleState => exact .inl rfl
  | rleLast => exact .inr rfl
  | _ => exact absurd rfl h

/-- A change through two updates comes from one of them. -/
theorem readReg_ne_or {s t u : State} {r : Reg} (h : u.readReg r ≠ s.readReg r) :
    u.readReg r ≠ t.readReg r ∨ t.readReg r ≠ s.readReg r :=
  not_and_or.mp fun ⟨hu, ht⟩ => h (hu.trans ht)

/-- A command that completes changes the registers of its row of R21's table only; ROW_LAST's view stands apart (log entry 12). -/
theorem Effect.writes_listed {i : Instr} {s u : State} (h : Effect s i u) {r : Reg} (hr : r ≠ .rowLast)
    (hne : u.readReg r ≠ s.readReg r) : writtenBy r i = true := by
  cases h with
  | unchanged => exact absurd rfl hne
  | alloc x =>
    cases r with
    | status | cap | pos | extent => rfl
    | _ => exact absurd rfl hne
  | seek x =>
    obtain rfl | rfl := withCursor_writes (c := s.moveTo x.toNat) hne <;> rfl
  | write n data h =>
    rw [append_frame h] at hne
    obtain rfl | rfl := withCursor_writes hne <;> rfl
  | rleInit b =>
    cases r with
    | status | rleState | rleLast => rfl
    | _ => exact absurd rfl hne
  | rowInit b base =>
    cases r with
    | status | rowBase | rowState => rfl
    | rowLast => exact absurd rfl hr
    | _ => exact absurd rfl hne
  | cfg f b base =>
    cases r with
    | status | enc | rleState | rleLast | rowBase | rowState => rfl
    | rowLast => exact absurd rfl hr
    | _ => exact absurd rfl hne
  | rlePush hi _ h =>
    rw [rlePixel_frame h] at hne
    obtain hne | hne := readReg_ne_or (t := s.withCursor u) hne
    · obtain ⟨x, rfl⟩ | ⟨x, rfl⟩ := hi <;> obtain rfl | rfl := withEncoder_writes hne <;> rfl
    · obtain ⟨x, rfl⟩ | ⟨x, rfl⟩ := hi <;> obtain rfl | rfl := withCursor_writes hne <;> rfl
  | rleFlush hi h =>
    rw [rleFinish_frame h] at hne
    obtain hne | hne := readReg_ne_or (t := s.withCursor u) hne
    · obtain rfl | rfl := hi <;> obtain rfl | rfl := withEncoder_writes hne <;> rfl
    · obtain rfl | rfl := hi <;> obtain rfl | rfl := withCursor_writes hne <;> rfl
  | rowPush hi _ h =>
    obtain ⟨-, -, rfl⟩ := rowPushBody_eq_ok.mp h
    cases r with
    | pos | extent | rowState => obtain ⟨x, rfl⟩ | ⟨x, rfl⟩ := hi <;> rfl
    | rowLast => exact absurd rfl hr
    | _ => exact absurd rfl hne
  | rowEnd hi h =>
    obtain ⟨-, -, -, rfl⟩ := rowEndBody_eq_ok.mp h
    cases r with
    | pos | extent | rowState => obtain rfl | rfl := hi <;> rfl
    | rowLast => exact absurd rfl hr
    | _ => exact absurd rfl hne

/-- The stored ROW_LAST is written by ROW_PUSH and PIX only (R21, R170, R171). -/
theorem Effect.writes_rowLast_listed {i : Instr} {s u : State} (h : Effect s i u) (hne : u.rowLast ≠ s.rowLast) :
    writtenBy .rowLast i = true := by
  cases h with
  | unchanged | alloc | seek | rleInit | rowInit | cfg => exact absurd rfl hne
  | write n data h => rw [append_frame h] at hne; exact absurd rfl hne
  | rlePush _ _ h => rw [rlePixel_frame h] at hne; exact absurd rfl hne
  | rleFlush _ h => rw [rleFinish_frame h] at hne; exact absurd rfl hne
  | rowPush hi _ _ => obtain ⟨x, rfl⟩ | ⟨x, rfl⟩ := hi <;> rfl
  | rowEnd _ h =>
    obtain ⟨-, -, -, rfl⟩ := rowEndBody_eq_ok.mp h
    exact absurd rfl hne

/-- The view of ROW_LAST shows the stored register at the unit's BPP, so it changes with one of the two (R36). -/
theorem readReg_rowLast_ne {s t : State} (h : t.readReg .rowLast ≠ s.readReg .rowLast) :
    t.rowLast ≠ s.rowLast ∨ t.rowBpm1 ≠ s.rowBpm1 :=
  not_and_or.mp fun ⟨hlast, hbpm1⟩ => h (by simp only [State.readReg, State.rowLastWord, hlast, hbpm1])

/-- Settles O54: a command that completes writes the registers of its row, and fault entry those of R244. -/
theorem registersWrittenOnlyAsListed : Obligations.RegistersWrittenOnlyAsListed := by
  unfold Obligations.RegistersWrittenOnlyAsListed
  intro i s t hf h
  cases exec_ends h with
  | completes ws he =>
    have hrun := he.ports_eq.1.trans hf
    refine ⟨fun r hr hne => .inl ⟨hrun, he.writes_listed hr ?_⟩, fun hne => ⟨hrun, he.writes_rowLast_listed hne⟩,
      fun hne => ⟨hrun, (readReg_rowLast_ne hne).imp_left he.writes_rowLast_listed⟩⟩
    rwa [readReg_respond] at hne
  | faults w htr => exact ⟨fun r _ hne => .inr ⟨rfl, takeFault_writes hne⟩, (absurd rfl ·), (absurd rfl ·)⟩

end Sys2Proof.Machine
end

section
/-! PROOF. What can be read: the registers after reset, the fields that RD answers, and a slice of bytes that do not exist. -/

namespace Sys2Proof.Machine

/-! ## The fresh state -/

/-- No offset exists while CAP is 0 (R28). -/
theorem readByte_of_cap_zero {s : State} (h : s.cap = 0) (a : Nat) : s.readByte a = none := by
  rw [State.readByte, h]
  exact if_neg (Nat.not_lt_zero a)

/-- Settles O11, register by register. -/
theorem freshStateIsZero : Obligations.FreshStateIsZero := by
  unfold Obligations.FreshStateIsZero
  refine ⟨fun r => ?_, rfl, rfl, rfl, readByte_of_cap_zero rfl⟩
  cases r <;> decide

/-! ## Bytes past CAP -/

/-- MemRead of a range that reaches a byte at or past CAP answers nothing (R12, R28). -/
theorem memRead_eq_none {s : State} {k : Nat} (hk : s.cap.toNat ≤ k) :
    ∀ {n a : Nat}, a ≤ k → k < a + n → s.memRead a n = none
  | 0, a, hlo, hhi => absurd hhi (by omega)
  | n + 1, a, hlo, hhi => by
    obtain rfl | hlt := Nat.eq_or_lt_of_le hlo
    · simp only [State.memRead, State.readByte, if_neg (Nat.not_lt.mpr hk)]
    · have hrest : s.memRead (a + 1) n = none := memRead_eq_none hk hlt (by omega)
      rw [State.memRead, hrest]
      split <;> rfl

/-- Settles O23: the slice passes R106's range checks, and its last byte is past CAP. -/
theorem sliceOfMissingBytesStops : Obligations.SliceOfMissingBytesStops := by
  unfold Obligations.SliceOfMissingBytesStops
  intro a b s hca hab hbe hcap
  have hread : s.memRead a.toNat (b.toNat - a.toNat) = none :=
    memRead_eq_none (k := b.toNat - 1) (by omega) (by omega) (by omega)
  show execCurSlice (some a) (some b) s = _
  simp only [execCurSlice, hca, sliceStop, sliceStart, Option.getD_some, answerSlice, hread, Bool.not_true,
    Bool.false_eq_true, if_false, if_neg (Nat.not_lt.mpr hbe), if_neg (Nat.not_lt.mpr hab.le), gt_iff_lt]

/-! ## The fields of the registers -/

/-- A field placed above the bits of a word adds its value (R21). -/
theorem toNat_or_field {x y : Word} {k v : Nat} (hx : x.toNat < 2 ^ k) (hy : y.toNat = 2 ^ k * v) :
    (x ||| y).toNat = x.toNat + 2 ^ k * v := by
  rw [BitVec.toNat_or, hy, Nat.or_comm, ← Nat.two_pow_add_eq_or_of_lt hx, Nat.add_comm]

/-- A field of n bits shifted to place k. -/
theorem toNat_field {n k : Nat} (v : BitVec n) (h : n + k ≤ 32) :
    (v.setWidth 32 <<< k).toNat = 2 ^ k * v.toNat := by
  have hv : v.toNat < 2 ^ 32 := v.isLt.trans_le (Nat.pow_le_pow_right (by omega) (by omega))
  have hvk : v.toNat * 2 ^ k < 2 ^ 32 :=
    calc v.toNat * 2 ^ k
      _ < 2 ^ n * 2 ^ k := Nat.mul_lt_mul_of_pos_right v.isLt (Nat.two_pow_pos k)
      _ = 2 ^ (n + k) := (Nat.pow_add 2 n k).symm
      _ ≤ 2 ^ 32 := Nat.pow_le_pow_right (by omega) h
  rw [BitVec.toNat_shiftLeft, BitVec.toNat_setWidth, Nat.mod_eq_of_lt hv, Nat.shiftLeft_eq, Nat.mod_eq_of_lt hvk, Nat.mul_comm]

/-- STATUS: five bits (R22). -/
theorem statusWord_toNat (s : State) : s.statusWord.toNat =
    s.fault.toNat + 2 * s.ca.toNat + 4 * s.rleCfg.toNat + 8 * s.rowCfg.toNat + 16 * s.encCfg.toNat := by
  unfold State.statusWord
  generalize s.fault = a, s.ca = b, s.rleCfg = c, s.rowCfg = d, s.encCfg = e
  revert a b c d e
  decide

/-- Bit 0 of STATUS is FAULT (R22). -/
theorem statusWord_getLsbD_zero (s : State) : s.statusWord.getLsbD 0 = s.fault := by
  unfold State.statusWord
  generalize s.fault = a, s.ca = b, s.rleCfg = c, s.rowCfg = d, s.encCfg = e
  revert a b c d e
  decide

/-- ENC: FMT and RLEEN (R29). -/
theorem encWord_toNat (s : State) : s.encWord.toNat = s.encFmt.code.toNat + 8 * s.encRle.toNat := by
  unfold State.encWord
  cases s.encFmt <;> cases s.encRle <;> rfl

/-- RLE_STATE: MODE and PEND, then CNT at bit 2 and BPM1 at bit 9 (R30). -/
theorem rleStateWord_toNat (s : State) : s.rleStateWord.toNat =
    (if s.rleMode = .compress then 1 else 0) + 2 * s.rlePend.toNat + 4 * s.rleCnt.toNat + 512 * s.rleBpm1.toNat := by
  have hbits : (bitAt s.rleMode.bit 0 ||| bitAt s.rlePend 1).toNat =
      (if s.rleMode = .compress then 1 else 0) + 2 * s.rlePend.toNat := by
    cases s.rleMode <;> cases s.rlePend <;> rfl
  have hmode : (if s.rleMode = .compress then 1 else 0) ≤ 1 := by split <;> decide
  have hpend := s.rlePend.toNat_le
  have hcnt := s.rleCnt.isLt
  have hlow := toNat_or_field (x := bitAt s.rleMode.bit 0 ||| bitAt s.rlePend 1) (by rw [hbits]; omega)
    (toNat_field (k := 2) s.rleCnt (by omega))
  rw [State.rleStateWord, toNat_or_field (by rw [hlow, hbits]; omega) (toNat_field (k := 9) s.rleBpm1 (by omega)), hlow, hbits]
  norm_num

/-- ROW_STATE: LASTV and BPM1 (R35). -/
theorem rowStateWord_toNat (s : State) : s.rowStateWord.toNat = s.rowLastv.toNat + 2 * s.rowBpm1.toNat := by
  have hlastv : (bitAt s.rowLastv 0).toNat = s.rowLastv.toNat := by cases s.rowLastv <;> rfl
  have hle := s.rowLastv.toNat_le
  rw [State.rowStateWord, toNat_or_field (by rw [hlastv]; omega) (toNat_field (k := 1) s.rowBpm1 (by omega)), hlastv]
  norm_num

/-- A pixel register reads as its low 8*BPP bits (R31, R36). -/
theorem lowBytes_toNat (b : BitVec 2) (w : Word) : (lowBytes (bppOf b) w).toNat = w.toNat % 2 ^ (8 * (b.toNat + 1)) :=
  fromLE_pixelOf_toNat w (bppOf_le b)

/-- Settles O49, each register by the lemma about its word. -/
theorem registerFieldLayout : Obligations.RegisterFieldLayout := by
  unfold Obligations.RegisterFieldLayout
  intro s
  refine ⟨statusWord_toNat s, ?cause, rfl, rfl, rfl, rfl, encWord_toNat s, rleStateWord_toNat s, lowBytes_toNat _ _, rfl,
    rowStateWord_toNat s, lowBytes_toNat _ _, (statusWord_getLsbD_zero s).symm, ?causeOut, rfl⟩
  case cause =>
    rw [State.readReg, State.causeWord]
    cases s.cause <;> rfl
  case causeOut =>
    rw [State.causeOut, State.readReg, State.causeWord]
    cases s.cause <;> rfl

end Sys2Proof.Machine
end

/-! # Proofs of the statements of spec/20_memory.md -/

section
/-! PROOF. Where commands write BUF: between the POS they start at and the POS they leave, and only the commands R51 lists. -/

namespace Sys2Proof.Machine

/-! ## The bytes between the old POS and the new POS -/

/-- The two states' BUF agree below the POS of `s` and from the POS of `t` on: what was written lies between the two. -/
def State.WroteBetween (s t : State) : Prop :=
  ∀ a, a < s.pos.toNat ∨ t.pos.toNat ≤ a → Memory.read t.buf a = Memory.read s.buf a

theorem State.WroteBetween.of_buf_eq {s t : State} (h : t.buf = s.buf) : s.WroteBetween t := fun a _ => by rw [h]

theorem State.WroteBetween.congr {s s' t t' : State} (h : s.WroteBetween t) (hs : (s'.pos, s'.buf) = (s.pos, s.buf))
    (ht : (t'.pos, t'.buf) = (t.pos, t.buf)) : s'.WroteBetween t' := by
  simp only [Prod.mk.injEq] at hs ht
  obtain ⟨hpos, hbuf⟩ := hs
  obtain ⟨hpos', hbuf'⟩ := ht
  simpa only [State.WroteBetween, hpos, hbuf, hpos', hbuf'] using h

theorem State.wroteBetween_writeAt {s : State} {bs : List Byte} {stop : Nat} (hm : Memory.wf s.buf = true)
    (hbs : s.pos.toNat + bs.length ≤ stop) (hstop : stop ≤ s.cap.toNat) : s.WroteBetween (s.writeAt bs stop) := by
  intro a ha
  have hpos : (s.writeAt bs stop).pos.toNat = stop := toNat_ofNat_of_le hstop
  exact Memory.read_writeAll_outside hm (by omega)

theorem wroteBetween_append {bs : List Byte} {s u : State} (hm : Memory.wf s.buf = true) (h : append bs s = .ok u) :
    s.WroteBetween u := by
  obtain ⟨hfits, rfl⟩ := append_eq_ok.mp h
  exact State.wroteBetween_writeAt hm le_rfl hfits

theorem wroteBetween_emitSection {m : RleMode} {n : Nat} {bs : List Byte} {s u : State} (hm : Memory.wf s.buf = true)
    (h : emitSection m n bs s = .ok u) : s.WroteBetween u := by
  obtain ⟨-, rfl⟩ | ⟨-, h⟩ := emitSection_eq_ok h
  · exact .of_buf_eq rfl
  · exact wroteBetween_append hm h

/-- A pushed pixel emits at most one section, and nothing else of it reaches BUF (R123 to R127). -/
theorem wroteBetween_rlePixel {p : Pixel} {s u : State} (hm : Memory.wf s.buf = true) (h : rlePixel p s = .ok u) :
    s.WroteBetween u := by
  obtain ⟨-, -, -, t, ht, rfl⟩ | ⟨-, -, -, rfl⟩ | ⟨-, -, t, ht, rfl⟩ | ⟨-, -, -, t, ht, rfl⟩ | ⟨-, -, rfl⟩ |
    ⟨-, -, -, -, t, ht, rfl⟩ | ⟨-, -, -, -, rfl⟩ := rlePixel_eq_ok h
  · exact (wroteBetween_emitSection hm ht).congr rfl rfl
  · exact .of_buf_eq rfl
  · exact (wroteBetween_emitSection hm ht).congr rfl rfl
  · exact (wroteBetween_emitSection hm ht).congr rfl rfl
  · exact .of_buf_eq rfl
  · exact (wroteBetween_emitSection (s := s.commitPending) hm ht).congr rfl rfl
  · exact .of_buf_eq rfl

/-- The end of a pixel stream emits at most one section (R128). -/
theorem wroteBetween_rleFinish {s u : State} (hm : Memory.wf s.buf = true) (h : rleFinish s = .ok u) : s.WroteBetween u := by
  obtain ⟨-, t, ht, rfl⟩ | ⟨-, -, t, ht, rfl⟩ | ⟨-, -, t, ht, rfl⟩ := rleFinish_eq_ok h
  · exact (wroteBetween_emitSection hm ht).congr rfl rfl
  · exact (wroteBetween_emitSection hm ht).congr rfl rfl
  · exact (wroteBetween_emitSection (s := s.commitPending) hm ht).congr rfl rfl

theorem wroteBetween_rowPushBody {w p : Word} {s u : State} (hm : Memory.wf s.buf = true) (h : rowPushBody w p s = .ok u) :
    s.WroteBetween u := by
  obtain ⟨-, hfits, rfl⟩ := rowPushBody_eq_ok.mp h
  exact State.wroteBetween_writeAt hm (by rw [pixelOf_length]) hfits

/-- The padding after the duplicated pixel is inside the bound, too, though no byte of it is written (R172). -/
theorem wroteBetween_rowEndBody {w : Word} {s u : State} (hm : Memory.wf s.buf = true) (h : rowEndBody w s = .ok u) :
    s.WroteBetween u := by
  obtain ⟨-, -, hfits, rfl⟩ := rowEndBody_eq_ok.mp h
  have hdup : s.pos.toNat + s.rowLastPixel.length ≤ s.rowStop := by
    rw [State.rowLastPixel, pixelOf_length]
    exact Nat.le_add_right _ _
  exact State.wroteBetween_writeAt hm hdup hfits

theorem Effect.wroteBetween {i : Instr} {s u : State} (h : Effect s i u) (hm : Memory.wf s.buf = true)
    (hi : ∀ x, i ≠ .curAlloc x) : s.WroteBetween u := by
  cases h with
  | alloc x => exact absurd rfl (hi x)
  | unchanged | seek | rleInit | rowInit | cfg => exact .of_buf_eq rfl
  | write n data h => exact wroteBetween_append hm h
  | rlePush _ _ h => exact wroteBetween_rlePixel hm h
  | rleFlush _ h => exact wroteBetween_rleFinish hm h
  | rowPush _ _ h => exact wroteBetween_rowPushBody hm h
  | rowEnd _ h => exact wroteBetween_rowEndBody hm h

theorem exec_wroteBetween {i : Instr} {s t : State} (h : exec i s = .next t) (hs : s.CursorInv)
    (hi : ∀ x, i ≠ .curAlloc x) : s.WroteBetween t := by
  cases exec_ends h with
  | completes ws he => exact he.wroteBetween hs.buf_canonical hi
  | faults w htr => exact .of_buf_eq rfl

/-! ## The commands that reach BUF -/

/-- R51's list of the commands that write BUF. -/
def writesBuf : Instr → Bool
  | .curAlloc _ | .curWrite _ _ | .rlePush _ | .rleFlush | .rowPush _ | .rowEnd | .pix _ | .eor | .eoi => true
  | _ => false

theorem Effect.buf_eq {i : Instr} {s u : State} (h : Effect s i u) (hi : writesBuf i = false) : u.buf = s.buf := by
  cases h with
  | unchanged | seek | rleInit | rowInit | cfg => rfl
  | alloc | write => cases hi
  | rlePush hp | rowPush hp => obtain ⟨_, rfl⟩ | ⟨_, rfl⟩ := hp <;> cases hi
  | rleFlush hp | rowEnd hp => obtain rfl | rfl := hp <;> cases hi

theorem exec_buf_eq {i : Instr} {s t : State} (h : exec i s = .next t) (hi : writesBuf i = false) : t.buf = s.buf := by
  cases exec_ends h with
  | completes ws he => exact he.buf_eq hi
  | faults w htr => rfl

/-- Settles O56: the bounds by what a command's body writes, the other commands by R51's list. -/
theorem writesStayBetweenOldAndNewPos : Obligations.WritesStayBetweenOldAndNewPos := by
  unfold Obligations.WritesStayBetweenOldAndNewPos
  intro i s t hs h hi
  refine ⟨exec_wroteBetween h hs hi, ?unlisted⟩
  cases i with
  | curAlloc x => exact absurd rfl (hi x)
  | curWrite | rlePush | rleFlush | rowPush | rowEnd | pix | eor | eoi => trivial
  | _ => exact exec_buf_eq h rfl

end Sys2Proof.Machine
end

/-! # Proofs of the statements of spec/30_encoding.md -/

section
/-! PROOF. The decoder against the encoder and against R77's table: what is read as a command is encoded by exactly the words
read, a word begins a command exactly when one row fits it, and R80's length is the one the decoder waits for. -/

namespace Sys2Proof

/-- Settles O1: the decoder undoes the encoder. -/
theorem decodeOfEncode : Obligations.DecodeOfEncode := by
  unfold Obligations.DecodeOfEncode
  exact fun _ rest hi => decode_encode_append hi rest

/-! ## A command word from its fields (R72) -/

/-- A field moved back to its place is the word with only that field's bits kept. -/
theorem extractLsb'_placed (w : Word) {k n : Nat} :
    (w.extractLsb' k n).setWidth 32 <<< k = w &&& ((BitVec.allOnes n).setWidth 32 <<< k) := by
  ext b hb
  rcases Nat.lt_or_ge b k with hlt | hge
  · simp [hlt]
  · have hsum : k + (b - k) = b := by omega
    simp [hb, hge.not_gt, hsum, Bool.and_comm]

/-- The opcode at its place is W[31:24], the other bits 0 (R71). -/
theorem opcField_placed (w : Word) : (opcField w).setWidth 32 <<< 24 = w &&& 0xFF000000#32 := extractLsb'_placed w

/-- A single bit moved back to its place is the word with only that bit kept. -/
theorem bitAt_getLsbD (w : Word) {k : Nat} (hk : k < 32) : bitAt (w.getLsbD k) k = w &&& (1#32 <<< k) := by
  ext b hb
  rcases Nat.lt_trichotomy b k with hlt | rfl | hgt
  · cases h : w.getLsbD k <;> simp [bitAt, hlt]
  · cases h : w.getLsbD b <;> simp_all [bitAt, BitVec.getLsbD_eq_getElem]
  · have : b - k ≠ 0 := by omega
    cases h : w.getLsbD k <;> simp [bitAt, this, hgt.le.not_gt]

/-- The bits of W[23:0] that a format names: FMT, RLE, BPM1, HF, HT or REG (R72). -/
def Format.named (f : Format) : Word := ~~~(0xFF000000#32 ||| f.reserved)

/-- A word with no reserved bit set is its opcode and its named bits (R71). -/
theorem word_eq_opcField_or_named {f : Format} {w : Word} (h : w &&& f.reserved = 0) :
    w = (opcField w).setWidth 32 <<< 24 ||| (w &&& f.named) := by
  have hall : BitVec.allOnes 32 = 0xFF000000#32 ||| f.reserved ||| f.named := by cases f <;> decide
  calc w = w &&& (0xFF000000#32 ||| f.reserved ||| f.named) := by rw [← hall, BitVec.and_allOnes]
    _ = w &&& 0xFF000000#32 ||| (w &&& f.named) := by rw [BitVec.and_or_distrib_left, BitVec.and_or_distrib_left, h]; simp
    _ = (opcField w).setWidth 32 <<< 24 ||| (w &&& f.named) := by rw [opcField_placed]

/-! ## Building a command, undone -/

@[simp] theorem packInstr_opc (f : Fmt) (rgba : Word) : (packInstr f rgba).opc = .pack := by cases f <;> rfl

@[simp] theorem packInstr_fields (f : Fmt) (rgba : Word) : (packInstr f rgba).fields = fmtBits f := by cases f <;> rfl

@[simp] theorem packInstr_operands (f : Fmt) (rgba : Word) : (packInstr f rgba).operands = [rgba] := by cases f <;> rfl

@[simp] theorem packInstr_wellFormed (f : Fmt) (rgba : Word) : (packInstr f rgba).wellFormed = true := by cases f <;> rfl

/-- The FMT bits of a format that W's FMT field names are W's own (R73). -/
theorem fmtBits_of_ofCode {w : Word} {f : Fmt} (h : Fmt.ofCode (fmtField w) = some f) : fmtBits f = w &&& 0x00E00000#32 := by
  rw [fmtBits, ← Fmt.code_of_ofCode h, fmtField, extractLsb'_placed]
  rfl

/-- A command built from a word has that word's opcode and its named bits (R72, R73). -/
theorem opc_fields_of_buildInstr {o : Opc} {w : Word} {ops : List Word} {i : Instr} (h : buildInstr o w ops = .ok i) :
    i.opc = o ∧ i.fields = w &&& o.format.named := by
  have hbit (k : Nat) (hk : k < 32) := bitAt_getLsbD w hk
  cases o with
  | curSlice =>
    have hfields : bitAt (htField w) 1 ||| bitAt (hfField w) 0 = w &&& Format.named .fs := by
      rw [htField, hfField, hbit 1 (by omega), hbit 0 (by omega), ← BitVec.and_or_distrib_left]
      rfl
    cases h
    rw [sliceInstr, Opc.format, ← hfields]
    cases hfField w <;> cases htField w <;> exact ⟨rfl, rfl⟩
  | pack =>
    rw [buildInstr] at h
    split at h
    · rename_i f hf
      cases h
      exact ⟨packInstr_opc f _, (packInstr_fields f _).trans (fmtBits_of_ofCode hf)⟩
    · cases h
  | cfg =>
    rw [buildInstr] at h
    split at h
    · rename_i f hf
      cases h
      refine ⟨rfl, ?_⟩
      rw [Instr.fields, fmtBits_of_ofCode hf, rleField, hbit 20 (by omega), ← BitVec.and_or_distrib_left]
      rfl
    · cases h
  | rleInit | rowInit => cases h; exact ⟨rfl, extractLsb'_placed w⟩
  | rd =>
    rw [buildInstr] at h
    split at h
    · rename_i r hr
      cases h
      refine ⟨rfl, ?_⟩
      rw [Instr.fields, ← Reg.index_of_ofIndex hr]
      exact (BitVec.shiftLeft_zero _).symm.trans (extractLsb'_placed w)
    · cases h
  | _ => cases h; exact ⟨rfl, BitVec.and_zero.symm⟩

/-- One operand word is the whole operand list of length 1. -/
theorem operand_zero_of_length {ops : List Word} (h : ops.length = 1) : [operand 0 ops] = ops := by
  obtain ⟨x, rfl⟩ := List.length_eq_one_iff.mp h
  rfl

/-- A command built from as many operand words as R80 asks for carries exactly these, and the port can carry it (R72). -/
theorem operands_of_buildInstr {o : Opc} {w : Word} {ops : List Word} {i : Instr} (h : buildInstr o w ops = .ok i)
    (hlen : ops.length = operandCount o w ops) : i.operands = ops ∧ i.wellFormed = true := by
  cases o with
  | nop | curTell | rleInit | rleFlush | rowEnd | eor | eoi => cases h; exact ⟨(List.length_eq_zero_iff.mp hlen).symm, rfl⟩
  | curAlloc | curSeek | rlePush | rowInit | rowPush | pix => cases h; exact ⟨operand_zero_of_length hlen, rfl⟩
  | curWrite =>
    cases h
    cases ops with
    | nil => cases hlen
    | cons n data =>
      have hdata : data.length = wordsFor n.toNat := Nat.add_right_cancel (hlen.trans (Nat.add_comm ..))
      exact ⟨rfl, beq_iff_eq.mpr hdata⟩
  | curSlice =>
    cases h
    simp only [operandCount, Opc.format] at hlen
    rw [sliceInstr]
    cases hhf : hfField w <;> cases hht : htField w <;> simp only [hhf, hht] at hlen
    · exact ⟨(List.length_eq_zero_iff.mp hlen).symm, rfl⟩
    · exact ⟨operand_zero_of_length hlen, rfl⟩
    · exact ⟨operand_zero_of_length hlen, rfl⟩
    · obtain ⟨a, b, rfl⟩ := List.length_eq_two.mp hlen
      exact ⟨rfl, rfl⟩
  | pack =>
    rw [buildInstr] at h
    split at h <;> cases h
    exact ⟨(packInstr_operands _ _).trans (operand_zero_of_length hlen), packInstr_wellFormed _ _⟩
  | cfg =>
    rw [buildInstr] at h
    split at h <;> cases h
    exact ⟨operand_zero_of_length hlen, rfl⟩
  | rd =>
    rw [buildInstr] at h
    split at h <;> cases h
    exact ⟨(List.length_eq_zero_iff.mp hlen).symm, rfl⟩

/-- What decodes has no reserved bit set, and is built from its fields (R78). -/
theorem decodeFields_eq_ok {o : Opc} {w : Word} {ops : List Word} {i : Instr} :
    decodeFields o w ops = .ok i ↔ w &&& o.format.reserved = 0 ∧ buildInstr o w ops = .ok i := by
  unfold decodeFields
  split <;> simp_all

/-- The number of operand words does not depend on the words after them (R80). -/
theorem operandCount_take {o : Opc} {w : Word} {more : List Word} (h : operandCount o w more ≤ more.length) :
    operandCount o w (more.take (operandCount o w more)) = operandCount o w more := by
  cases hf : o.format with
  | fw =>
    cases more with
    | nil => simp [operandCount, hf] at h
    | cons n ops => simp only [operandCount, hf, Nat.add_comm 1, List.take_succ_cons]
  | _ => simp only [operandCount, hf]

/-- What is read as a command: its command word, exactly the operand words it asks for, and what is left over (R70, R72). -/
theorem decode_eq_command {ws rest : List Word} {i : Instr} (h : decode ws = .command i rest) :
    ∃ w ops, ws = w :: (ops ++ rest) ∧ i.word = w ∧ i.operands = ops ∧ i.wellFormed = true := by
  cases ws with
  | nil => cases h
  | cons w more =>
    cases ho : Opc.ofByte (opcField w) with
    | none => rw [decode_undefined more ho] at h; cases h
    | some o =>
      rcases Nat.lt_or_ge more.length (operandCount o w more) with hlt | hge
      · rw [decode_incomplete ho hlt] at h; cases h
      rw [decode_complete ho hge] at h
      split at h
      · cases h
      rename_i hfields
      cases h
      obtain ⟨hreserved, hbuild⟩ := decodeFields_eq_ok.mp hfields
      obtain ⟨hopc, hnamed⟩ := opc_fields_of_buildInstr hbuild
      obtain ⟨hops, hwf⟩ := operands_of_buildInstr hbuild (by rw [operandCount_take hge, List.length_take, Nat.min_eq_left hge])
      refine ⟨w, _, by rw [List.take_append_drop], ?_, hops, hwf⟩
      rw [Instr.word, hopc, hnamed, ← Opc.byte_of_ofByte ho]
      exact (word_eq_opcField_or_named hreserved).symm

/-- Settles O2: the command word is put together again from its fields, and the operand words are those asked for. -/
theorem encodeOfDecode : Obligations.EncodeOfDecode := by
  unfold Obligations.EncodeOfDecode
  intro ws rest i h
  obtain ⟨w, ops, rfl, hword, hops, hwf⟩ := decode_eq_command h
  exact ⟨hwf, by rw [encode, hword, hops, List.cons_append]⟩

/-! ## The rows of R77 -/

/-- What the fields of a command word must satisfy, beside the reserved bits, for it to be a command (R73, R77). -/
def Opc.legal : Opc → Word → Bool
  | .pack, w | .cfg, w => decide ((fmtField w).toNat ≤ 4)
  | .rd, w => decide ((regField w).toNat ≤ 0x0B)
  | _, _ => true

/-- Legal fields are exactly what building a command needs. -/
theorem legal_iff_buildInstr {o : Opc} {w : Word} (ops : List Word) :
    o.legal w = true ↔ ∃ i, buildInstr o w ops = .ok i := by
  cases o with
  | pack | cfg =>
    rw [Opc.legal, ← Fmt.ofCode_isSome, buildInstr]
    cases Fmt.ofCode (fmtField w) <;> simp
  | rd =>
    rw [Opc.legal, ← Reg.ofIndex_isSome, buildInstr]
    cases Reg.ofIndex (regField w) <;> simp
  | _ => exact ⟨fun _ => ⟨_, rfl⟩, fun _ => rfl⟩

/-- A word that begins a command: a defined opcode, no reserved bit and legal fields (R78). -/
def IsCommandWord (w : Word) : Prop :=
  ∃ o, Opc.ofByte (opcField w) = some o ∧ w &&& o.format.reserved = 0 ∧ o.legal w = true

/-- For every opcode and command word there are operand words as many as R80 asks for. -/
theorem exists_operands (o : Opc) (w : Word) : ∃ ops : List Word, operandCount o w ops = ops.length := by
  refine ⟨List.replicate (operandCount o w [0]) 0, ?_⟩
  rw [List.length_replicate]
  unfold operandCount
  cases o.format <;> rfl

theorem IsCommandWord.exists_decode {w : Word} (h : IsCommandWord w) : ∃ ops i, decode (w :: ops) = .command i [] := by
  obtain ⟨o, ho, hreserved, hlegal⟩ := h
  obtain ⟨ops, hops⟩ := exists_operands o w
  obtain ⟨i, hi⟩ := (legal_iff_buildInstr ops).mp hlegal
  refine ⟨ops, i, ?_⟩
  rw [decode_complete ho hops.le, hops, List.take_length, List.drop_length, decodeFields_eq_ok.mpr ⟨hreserved, hi⟩]

theorem OpcodeRow.fits_iff {r : OpcodeRow} {w : Word} :
    r.fits w = true ↔ w &&& r.mask = r.pattern ∧ r.legal w = true := by
  simp [OpcodeRow.fits]

/-- A row of R77 with all 32 bits in its mask fits its own word only. -/
theorem isCommandWord_of_fits_exact {p : Word} (hp : IsCommandWord p) (w : Word)
    (h : OpcodeRow.fits ⟨p, 0xFFFFFFFF, fun _ => true⟩ w = true) : IsCommandWord w := by
  obtain ⟨hmatch, -⟩ := OpcodeRow.fits_iff.mp h
  obtain rfl : w = p := BitVec.and_allOnes.symm.trans hmatch
  exact hp

/-- Words with the same bits W[31:24] have the same opcode (R71). -/
theorem opcField_congr {v w : Word} (h : w &&& 0xFF000000#32 = v &&& 0xFF000000#32) : opcField w = opcField v := by
  have hback (b : BitVec 8) : opcField (b.setWidth 32 <<< 24) = b := by
    unfold opcField
    ext k hk
    simp [show 24 + k < 32 by omega, BitVec.getLsbD_eq_getElem hk]
  rw [← hback (opcField w), opcField_placed, h, ← opcField_placed, hback]

/-- A row of R77 with free fields fits command words only, if its mask holds the opcode and every reserved bit of its opcode's
format, and its legal fields are the opcode's. -/
theorem isCommandWord_of_fits {r : OpcodeRow} (o : Opc) (hopc : Opc.ofByte (opcField r.pattern) = some o)
    (hreserved : r.pattern &&& o.format.reserved = 0)
    (hmask : r.mask &&& (0xFF000000#32 ||| o.format.reserved) = 0xFF000000#32 ||| o.format.reserved)
    (hlegal : ∀ w, r.legal w = true → o.legal w = true) (w : Word) (h : r.fits w = true) : IsCommandWord w := by
  obtain ⟨hmatch, hl⟩ := OpcodeRow.fits_iff.mp h
  have hbits {c : Word} (hc : (0xFF000000#32 ||| o.format.reserved) &&& c = c) : w &&& c = r.pattern &&& c := by
    rw [← hmatch, BitVec.and_assoc, ← hc, ← BitVec.and_assoc r.mask, hmask]
  refine ⟨o, ?_, (hbits ?_).trans hreserved, hlegal w hl⟩
  · rw [opcField_congr (hbits ?_), hopc]
    cases o <;> decide
  · cases o <;> decide

/-- Every row of R77, in its order: 17 rows fit one word each, five have free fields. -/
theorem fitting_isCommandWord : ∀ r ∈ opcodeRows, ∀ w, r.fits w = true → IsCommandWord w := by
  have fixed {p : Word} (hp : IsCommandWord p) := isCommandWord_of_fits_exact hp
  simp only [opcodeRows, List.cons_append, List.nil_append, List.forall_mem_cons]
  refine ⟨fixed ⟨.nop, by decide⟩, fixed ⟨.curAlloc, by decide⟩, fixed ⟨.curSeek, by decide⟩, fixed ⟨.curTell, by decide⟩,
    fixed ⟨.curWrite, by decide⟩, ?curSlice, fixed ⟨.pack, by decide⟩, fixed ⟨.pack, by decide⟩, fixed ⟨.pack, by decide⟩,
    fixed ⟨.pack, by decide⟩, fixed ⟨.pack, by decide⟩, ?rleInit, fixed ⟨.rlePush, by decide⟩, fixed ⟨.rleFlush, by decide⟩,
    ?rowInit, fixed ⟨.rowPush, by decide⟩, fixed ⟨.rowEnd, by decide⟩, ?cfg, fixed ⟨.pix, by decide⟩, fixed ⟨.eor, by decide⟩,
    fixed ⟨.eoi, by decide⟩, ?rd, ?none⟩
  case curSlice => exact isCommandWord_of_fits .curSlice rfl rfl rfl fun _ _ => rfl
  case rleInit => exact isCommandWord_of_fits .rleInit rfl rfl rfl fun _ _ => rfl
  case rowInit => exact isCommandWord_of_fits .rowInit rfl rfl rfl fun _ _ => rfl
  case cfg => exact isCommandWord_of_fits .cfg rfl rfl rfl fun _ h => h
  case rd => exact isCommandWord_of_fits .rd rfl rfl rfl fun _ h => h
  case none => simp

/-! ## No two rows overlap -/

/-- No word agrees with two rows of R77: where both masks have a bit that both matches fix, some match differs there. -/
theorem opcodeRows_apart : opcodeRows.Pairwise fun r q => r.pattern &&& q.mask ≠ q.pattern &&& r.mask := by
  decide

/-- Of rows that are pairwise apart, at most one agrees with a word. -/
theorem length_filter_le_one {w : Word} {rows : List OpcodeRow}
    (h : rows.Pairwise fun r q => r.pattern &&& q.mask ≠ q.pattern &&& r.mask) :
    (rows.filter fun r => w &&& r.mask == r.pattern).length ≤ 1 := by
  have hmem : ∀ r ∈ rows.filter fun r => w &&& r.mask == r.pattern, w &&& r.mask = r.pattern := by simp
  have hpair := h.filter fun r => w &&& r.mask == r.pattern
  generalize rows.filter (fun r => w &&& r.mask == r.pattern) = fitting at hmem hpair
  match fitting with
  | [] | [_] => simp
  | r :: q :: _ =>
    have hr := hmem r (by simp)
    have hq := hmem q (by simp)
    refine absurd ?_ ((List.pairwise_cons.mp hpair).1 q (by simp))
    rw [← hr, ← hq, BitVec.and_assoc, BitVec.and_assoc, BitVec.and_comm r.mask]

/-- Every command's own word fits a row of R77. -/
theorem any_fits_word (i : Instr) : opcodeRows.any (·.fits i.word) = true := by
  cases i with
  | curSlice start stop =>
    rw [word_curSlice]
    generalize start.isSome = hf, stop.isSome = ht
    revert hf ht
    decide
  | rleInit b => rw [word_rleInit]; revert b; decide
  | rowInit b base => rw [word_rowInit]; revert b; decide
  | cfg fmt rle base => rw [word_cfg]; cases fmt <;> revert rle <;> decide
  | rd reg => rw [word_rd]; cases reg <;> decide
  | _ =>
    simp only [word_nop, word_curAlloc, word_curSeek, word_curTell, word_curWrite, word_packA8, word_packBgr565,
      word_packBgra8888, word_packAbgr6666, word_packAbgr8888, word_rlePush, word_rleFlush, word_rowPush, word_rowEnd, word_pix,
      word_eor, word_eoi]
    decide

/-- Settles O3: the rows fit exactly the command words, and a second row never agrees with a word. -/
theorem commandWordsFitOneRow : Obligations.CommandWordsFitOneRow := by
  unfold Obligations.CommandWordsFitOneRow
  refine ⟨fun w => ⟨?fits, ?decodes⟩, fun w => length_filter_le_one opcodeRows_apart⟩
  case fits =>
    rintro ⟨ops, i, h⟩
    obtain ⟨v, _, hv, hword, -⟩ := decode_eq_command h
    obtain rfl : i.word = w := hword.trans (List.cons.inj hv).1.symm
    obtain ⟨r, hr, hfits⟩ := List.any_eq_true.mp (any_fits_word i)
    have hatMost : (opcodeRows.filter (·.fits i.word)).length ≤ 1 := by
      refine le_trans ?_ (length_filter_le_one (w := i.word) opcodeRows_apart)
      exact (List.monotone_filter_right _ fun q hq => beq_iff_eq.mpr (OpcodeRow.fits_iff.mp hq).1).length_le
    have hmem : r ∈ opcodeRows.filter (·.fits i.word) := List.mem_filter.mpr ⟨hr, hfits⟩
    exact le_antisymm hatMost (List.length_pos_of_mem hmem)
  case decodes =>
    intro h
    obtain ⟨r, hr⟩ := List.exists_mem_of_length_pos (h.ge.trans' Nat.zero_lt_one)
    obtain ⟨hr, hfits⟩ := List.mem_filter.mp hr
    exact (fitting_isCommandWord r hr w hfits).exists_decode

end Sys2Proof
end

section
/-! PROOF. The words of a command as they arrive: the length the decoder waits for is R80's, a rejected command word faults, and
a command runs with its last word. -/

namespace Sys2Proof.Machine

/-! ## The length rule (R80) -/

/-- The values of W[31:24] outside the map of R76 (R78(a)). -/
theorem ofByte_eq_none_iff (b : BitVec 8) :
    Opc.ofByte b = none ↔ b.toNat ∉ [0x00, 0x01, 0x02, 0x03, 0x04, 0x05, 0x10, 0x20, 0x21, 0x22, 0x30, 0x31, 0x32, 0x40, 0x41,
      0x42, 0x43, 0x50] := by
  revert b
  decide

/-- An undefined opcode is a command of one word. -/
theorem commandLength_undefined {w : Word} (ops : List Word) (h : Opc.ofByte (opcField w) = none) : commandLength w ops = 1 := by
  have hout := (ofByte_eq_none_iff _).mp h
  simp only [List.mem_cons, List.not_mem_nil, or_false, not_or] at hout
  simp [commandLength, hout]

/-- The command word and the operand words the decoder asks for make up R80's length. -/
theorem commandLength_defined {o : Opc} {w : Word} (ops : List Word) (h : Opc.ofByte (opcField w) = some o) :
    commandLength w ops = 1 + operandCount o w ops := by
  have hopc : opcField w = o.byte := Opc.byte_of_ofByte h
  cases o with
  | curWrite =>
    cases ops with
    | nil => simp [commandLength, operandCount, hopc, Opc.byte, Opc.format]
    | cons n data => simp [commandLength, operandCount, hopc, Opc.byte, Opc.format, wordsFor, ← Nat.add_assoc]
  | curSlice => simp [commandLength, operandCount, hopc, Opc.byte, Opc.format, hfField, htField, Nat.add_assoc]
  | _ => simp [commandLength, operandCount, hopc, Opc.byte, Opc.format]

/-- Settles O4: an undefined opcode never waits, and for the others R80's length is the decoder's count. -/
theorem framingFollowsTheLengthRule : Obligations.FramingFollowsTheLengthRule := by
  unfold Obligations.FramingFollowsTheLengthRule
  intro w ops
  cases ho : Opc.ofByte (opcField w) with
  | none => simp [decode_undefined ops ho, commandLength_undefined ops ho]
  | some o =>
    rw [commandLength_defined ops ho, Nat.add_lt_add_iff_left]
    refine ⟨fun h => ?_, decode_incomplete ho⟩
    obtain ⟨_, ho', hlt⟩ := incomplete_cons h
    cases ho.symm.trans ho'
    exact hlt

/-! ## A word arrives at a running block (R70) -/

section
variable {s : State} {w : Word} {evs : List PortEvent} (hf : s.fault = false) (hin : s.input = .commandWord w :: evs)
include hin

theorem step_commandWord : step s = acceptWord w { s with input := evs } := by
  simp only [step, handleEvent, hin]

include hf

theorem step_waits (hd : decode (s.part ++ [w]) = .incomplete) :
    step s = .next { s with input := evs, part := s.part ++ [w] } := by
  simp only [step_commandWord hin, acceptWord, hf, hd, Bool.false_eq_true, if_false]

theorem step_runs {i : Instr} {rest : List Word} (hd : decode (s.part ++ [w]) = .command i rest) :
    step s = exec i { s with input := evs, part := rest } := by
  simp only [step_commandWord hin, acceptWord, hf, hd, Bool.false_eq_true, if_false]

theorem step_rejects {e : DecodeError} {cw : Word} {rest : List Word} (hd : decode (s.part ++ [w]) = .rejected e cw rest) :
    step s = .next (State.takeFault { s with input := evs, part := rest } cw ⟨causeOf e, cw⟩) := by
  simp only [step_commandWord hin, acceptWord, hf, hd, Bool.false_eq_true, if_false]

end

/-- Settles O7: it is the decoder's third answer to an arriving word. -/
theorem stepRunsDecodedCommand : Obligations.StepRunsDecodedCommand := by
  unfold Obligations.StepRunsDecodedCommand
  exact fun s w evs i rest hf hin hd => step_runs hf hin hd

/-! ## Rejected command words (R78) -/

/-- H of an OK response is W[31:24] in its place, the other bits 0 (R81). -/
theorem okHeader_eq (w : Word) : okHeader w = w &&& 0xFF000000#32 := opcField_placed w

/-- Fault entry is R244's, with the header written out (R81). -/
theorem takeFault_eq_faultedBy (s : State) (w : Word) (c : Cause) (info : Word) :
    s.takeFault w ⟨c, info⟩ = s.faultedBy w c info := by
  rw [State.takeFault, faultHeader, opcField_placed]
  rfl

/-- A defined opcode whose fields are no command is rejected when its last word has arrived. -/
theorem decode_rejected {o : Opc} {w : Word} {ops : List Word} {e : DecodeError} (ho : Opc.ofByte (opcField w) = some o)
    (hlen : 1 + ops.length = commandLength w ops) (he : ∀ os, decodeFields o w os = .error e) :
    decode (w :: ops) = .rejected e w [] := by
  rw [commandLength_defined ops ho, Nat.add_left_cancel_iff] at hlen
  rw [decode_complete ho hlen.ge, ← hlen, List.drop_length, he]

/-- An undefined opcode is rejected at its command word, its only word. -/
theorem decode_rejected_undefined {w : Word} {ops : List Word} (ho : Opc.ofByte (opcField w) = none)
    (hlen : 1 + ops.length = commandLength w ops) : decode (w :: ops) = .rejected .undefinedOpcode w [] := by
  rw [commandLength_undefined ops ho] at hlen
  obtain rfl : ops = [] := List.length_eq_zero_iff.mp (by omega)
  exact decode_undefined [] ho

theorem decodeFields_reserved {o : Opc} {w : Word} (h : w &&& o.format.reserved ≠ 0) (ops : List Word) :
    decodeFields o w ops = .error .reservedBit := if_pos h

/-- FMT codes from 5 on name no format (R73). -/
theorem ofCode_eq_none {c : BitVec 3} (h : 5 ≤ c.toNat) : Fmt.ofCode c = none := by
  have := Fmt.ofCode_isSome c
  rw [decide_eq_false (by omega)] at this
  simpa using this

/-- Register indices from 0x0C on name no register (R73). -/
theorem ofIndex_eq_none {c : BitVec 8} (h : 0x0C ≤ c.toNat) : Reg.ofIndex c = none := by
  have := Reg.ofIndex_isSome c
  rw [decide_eq_false (by omega)] at this
  simpa using this

theorem decodeFields_fmt {o : Opc} {w : Word} (ho : o = .pack ∨ o = .cfg) (hr : w &&& o.format.reserved = 0)
    (h : 5 ≤ (fmtField w).toNat) (ops : List Word) : decodeFields o w ops = .error .unsupportedFormat := by
  rw [decodeFields, if_neg (not_not.mpr hr)]
  obtain rfl | rfl := ho <;> rw [buildInstr, ofCode_eq_none h]

theorem decodeFields_reg {w : Word} (hr : w &&& Opc.rd.format.reserved = 0) (h : 0x0C ≤ (regField w).toNat) (ops : List Word) :
    decodeFields .rd w ops = .error .undefinedRegister := by
  rw [decodeFields, if_neg (not_not.mpr hr), buildInstr, ofIndex_eq_none h]

/-- Settles O6: each of R78's cases is one reason why the decoder rejects the word, and a rejected word faults. -/
theorem rejectedCommandWordsFault : Obligations.RejectedCommandWordsFault := by
  unfold Obligations.RejectedCommandWordsFault
  intro s w last ops evs hf hin hwords hlen
  have hstep {e : DecodeError} (hd : decode (w :: ops) = .rejected e w []) :
      step s = .next (State.faultedBy { s with input := evs, part := [] } w (causeOf e) w) := by
    rw [step_rejects hf hin (hwords ▸ hd), takeFault_eq_faultedBy]
  refine ⟨fun hopc => ?undefined, fun o ho hr => ?reserved, fun hw hfmt => ?format, fun hopc hr hreg => ?register⟩
  case undefined => exact hstep (decode_rejected_undefined ((ofByte_eq_none_iff _).mpr hopc) hlen)
  case reserved => exact hstep (decode_rejected ho hlen (decodeFields_reserved hr))
  case format =>
    obtain ⟨hopc, hr⟩ | ⟨hopc, hr⟩ := hw
    · exact hstep (decode_rejected (o := .pack) (by rw [hopc]; rfl) hlen (decodeFields_fmt (.inl rfl) hr hfmt))
    · exact hstep (decode_rejected (o := .cfg) (by rw [hopc]; rfl) hlen (decodeFields_fmt (.inr rfl) hr hfmt))
  case register => exact hstep (decode_rejected (o := .rd) (by rw [hopc]; rfl) hlen (decodeFields_reg hr hreg))

/-! ## The words of a command, one by one (R70) -/

/-- One step more, at the end of a run. -/
theorem run_succ {M : Host.Core} {k : Nat} {s t : M.State} (h : M.run k s = .next t) : M.run (k + 1) s = M.step t := by
  induction k generalizing s with
  | zero =>
    cases h
    rw [Host.Core.run]
    cases M.step t <;> rfl
  | succ k ih =>
    rw [Host.Core.run] at h ⊢
    cases hs : M.step s with
    | next u => rw [hs] at h; exact ih h
    | fault r => rw [hs] at h; cases h
    | refused r => rw [hs] at h; cases h

/-- While operand words are missing, more are asked for than have arrived (R80). -/
theorem lt_operandCount_take {o : Opc} {w : Word} {ops : List Word} (h : ops.length = operandCount o w ops) {k : Nat}
    (hk : k < ops.length) : k < operandCount o w (ops.take k) := by
  cases hf : o.format with
  | fw =>
    cases ops with
    | nil => exact absurd hk (Nat.not_lt_zero k)
    | cons n data =>
      simp only [operandCount, hf] at h
      cases k with
      | zero => simp [operandCount, hf]
      | succ k => simpa only [operandCount, hf, List.take_succ_cons, h] using hk
  | _ => simpa only [operandCount, hf, h] using hk

/-- Fewer words than a command has are no whole command. -/
theorem decode_take_encode {i : Instr} (hi : i.wellFormed = true) {k : Nat} (hk : k < (encode i).length) :
    decode ((encode i).take k) = .incomplete := by
  obtain ⟨hopc, -, hlen⟩ := framed i
  cases k with
  | zero => rfl
  | succ k =>
    rw [encode, List.length_cons, Nat.succ_lt_succ_iff] at hk
    refine decode_incomplete (o := i.opc) (by rw [hopc, Opc.ofByte_byte]) ?_
    rw [List.length_take, Nat.min_eq_left hk.le]
    exact lt_operandCount_take (hlen hi) hk

/-- The words of a command that have not arrived are the next events. -/
theorem drop_commandWords {ws : List Word} {k : Nat} (hk : k < ws.length) (evs : List PortEvent) :
    (ws.map PortEvent.commandWord ++ evs).drop k =
      .commandWord ws[k] :: (ws.map PortEvent.commandWord ++ evs).drop (k + 1) := by
  rw [List.drop_eq_getElem_cons (by simp; omega), List.getElem_append_left (by simpa using hk), List.getElem_map]

/-- The block with the words `ws` of a command received and the events `evs` next. -/
def State.withPort (s : State) (ws : List Word) (evs : List PortEvent) : State := { s with part := ws, input := evs }

theorem State.eq_withPort {s : State} {ws : List Word} {evs : List PortEvent} (hp : s.part = ws) (hin : s.input = evs) :
    s = s.withPort ws evs := by
  rw [← hp, ← hin]
  rfl

theorem step_withPort_waits {s : State} {ws : List Word} {w : Word} {evs : List PortEvent} (hf : s.fault = false)
    (hd : decode (ws ++ [w]) = .incomplete) :
    step (s.withPort ws (.commandWord w :: evs)) = .next (s.withPort (ws ++ [w]) evs) :=
  step_waits (s := s.withPort ws (.commandWord w :: evs)) hf rfl hd

theorem step_withPort_runs {s : State} {ws rest : List Word} {w : Word} {evs : List PortEvent} {i : Instr}
    (hf : s.fault = false) (hd : decode (ws ++ [w]) = .command i rest) :
    step (s.withPort ws (.commandWord w :: evs)) = exec i (s.withPort rest evs) :=
  step_runs (s := s.withPort ws (.commandWord w :: evs)) hf rfl hd

section
variable {s : State} {i : Instr} (hi : i.wellFormed = true) (hf : s.fault = false) (evs : List PortEvent)
include hi hf

/-- While words of a command are missing, the block only takes them in. -/
theorem run_takes_words : ∀ {k : Nat}, k < (encode i).length →
    Host.Core.run Sys2Proof.core k (s.withPort [] ((encode i).map PortEvent.commandWord ++ evs)) =
      .next (s.withPort ((encode i).take k) (((encode i).map PortEvent.commandWord ++ evs).drop k))
  | 0, _ => rfl
  | k + 1, hk => by
    have hk' := Nat.lt_of_succ_lt hk
    have htake : (encode i).take k ++ [(encode i)[k]] = (encode i).take (k + 1) := List.take_append_getElem hk'
    rw [run_succ (run_takes_words hk'), drop_commandWords hk', ← htake]
    exact step_withPort_waits hf (htake ▸ decode_take_encode hi hk)

/-- With the last word of a command the block executes it. -/
theorem run_executes :
    Host.Core.run Sys2Proof.core (encode i).length (s.withPort [] ((encode i).map PortEvent.commandWord ++ evs)) =
      exec i (s.withPort [] evs) := by
  have hlen : (encode i).length = i.operands.length + 1 := rfl
  have hlast : i.operands.length < (encode i).length := Nat.lt_succ_self _
  have hall : (encode i).take i.operands.length ++ [(encode i)[i.operands.length]] = encode i := by
    rw [List.take_append_getElem hlast, ← hlen, List.take_length]
  have hrest : ((encode i).map PortEvent.commandWord ++ evs).drop (i.operands.length + 1) = evs :=
    List.drop_left' (List.length_map _)
  rw [hlen, run_succ (run_takes_words hi hf evs hlast), drop_commandWords hlast, hrest]
  exact step_withPort_runs hf (hall.symm ▸ decode_of_encode_eq hi rfl)

end

/-- Settles O8: while words are missing they only wait, by induction on how many have arrived; the last one runs the command. -/
theorem commandRunsWhenAllWordsArrived : Obligations.CommandRunsWhenAllWordsArrived := by
  unfold Obligations.CommandRunsWhenAllWordsArrived
  intro s i evs hi hf hp hin
  have hs := State.eq_withPort hp hin
  have hnone : { s with input := evs } = s.withPort [] evs := by rw [← hp]; rfl
  refine ⟨fun k hk => ?waits, ?runs⟩
  case waits =>
    rw [hin]
    exact (congrArg _ hs).trans (run_takes_words hi hf evs hk)
  case runs =>
    rw [hnone]
    exact (congrArg _ hs).trans (run_executes hi hf evs)

end Sys2Proof.Machine
end

section
/-! PROOF. The responses of commands that complete (R81): no command body writes the response port, so the answer stands after
the words still undelivered. -/

namespace Sys2Proof.Machine

/-! ## Command bodies send no response -/

/-- A body that completes leaves the undelivered response words of `s` as they are. -/
def KeepsRsp (s : State) (r : Except Trap State) : Prop := ∀ u, r = .ok u → u.rsp = s.rsp

theorem keepsRsp_ok {s u : State} (h : u.rsp = s.rsp) : KeepsRsp s (.ok u) := by
  rintro _ ⟨⟩
  exact h

theorem KeepsRsp.require {s : State} {b : Bool} {tr : Trap} {r : Except Trap State} (h : KeepsRsp s r) :
    KeepsRsp s (require b tr r) :=
  fun u hu => h u (require_eq_ok.mp hu).2

theorem KeepsRsp.requireBit {s : State} {b : Bool} {w : Word} {r : Except Trap State} (h : KeepsRsp s r) :
    KeepsRsp s (requireBit b w r) :=
  h.require

theorem keepsRsp_append (bs : List Byte) (s : State) : KeepsRsp s (append bs s) :=
  fun _ h => by rw [append_frame h]; rfl

theorem keepsRsp_rlePushBody (w p : Word) (s : State) : KeepsRsp s (rlePushBody w p s) :=
  KeepsRsp.requireBit fun _ h => by rw [rlePixel_frame h]; rfl

theorem keepsRsp_rleFlushBody (w : Word) (s : State) : KeepsRsp s (rleFlushBody w s) :=
  KeepsRsp.requireBit fun _ h => by rw [rleFinish_frame h]; rfl

theorem keepsRsp_rowPushBody (w p : Word) (s : State) : KeepsRsp s (rowPushBody w p s) := by
  intro u h
  obtain ⟨-, -, rfl⟩ := rowPushBody_eq_ok.mp h
  rfl

theorem keepsRsp_rowEndBody (w : Word) (s : State) : KeepsRsp s (rowEndBody w s) := by
  intro u h
  obtain ⟨-, -, -, rfl⟩ := rowEndBody_eq_ok.mp h
  rfl

theorem keepsRsp_ite {s : State} {c : Prop} [Decidable c] {r q : Except Trap State} (hr : KeepsRsp s r) (hq : KeepsRsp s q) :
    KeepsRsp s (if c then r else q) := by
  split
  · exact hr
  · exact hq

theorem keepsRsp_emitPixel (w p : Word) (s : State) : KeepsRsp s (emitPixel w p s) :=
  keepsRsp_ite (keepsRsp_rlePushBody w p s) (keepsRsp_rowPushBody w p s)

/-! ## The answers of R81's table -/

/-- What a command that completes sends: W[31:24] with KIND 0x00, then its result words. -/
def Answers (w : Word) (s t : State) (ws : List Word) : Prop := t.rsp = s.rsp ++ (w &&& 0xFF000000#32) :: ws

theorem answers_of_finish {w : Word} {s t : State} {r : Except Trap State} (h : finish w s r = .next t)
    (hf : t.fault = false) (hr : KeepsRsp s r) : Answers w s t [] := by
  obtain ⟨u, hu, rfl⟩ | ⟨tr, -, rfl⟩ := finish_next h
  · rw [Answers, State.respond_rsp, hr u hu, okHeader_eq]
  · cases hf

/-- A command that cannot fault answers its header alone. -/
theorem answers_of_finish_ok {w : Word} {s u t : State} (h : finish w s (.ok u) = .next t) (hu : u.rsp = s.rsp) :
    Answers w s t [] := by
  rw [finish_ok] at h
  cases h
  rw [Answers, State.respond_rsp, hu, okHeader_eq]

theorem answers_of_finishAdv {w : Word} {s t : State} {r : Except Trap State} (h : finishAdv w s r = .next t)
    (hf : t.fault = false) (hr : KeepsRsp s r) : Answers w s t [t.pos - s.pos] := by
  obtain ⟨u, hu, rfl⟩ | ⟨tr, -, rfl⟩ := finishAdv_next h
  · rw [Answers, State.respond_rsp, hr u hu, okHeader_eq, State.respond_pos]
  · cases hf

theorem answers_of_respond {w : Word} {s t : State} {ws : List Word}
    (h : (.next (s.respond (okHeader w :: ws)) : Host.Outcome State Fault Refusal) = .next t) : Answers w s t ws := by
  cases h
  rw [Answers, State.respond_rsp, okHeader_eq]

theorem answers_curTell {s t : State} (h : execCurTell s = .next t) (hf : t.fault = false) :
    Answers Instr.curTell.word s t [s.pos] := by
  unfold execCurTell at h
  split at h
  · exact answers_of_respond h
  · cases h
    cases hf

/-- The length a slice answers is the difference of its ends (R106). -/
theorem ofNat_sub_eq {a b : Word} (h : a.toNat ≤ b.toNat) : BitVec.ofNat 32 (b.toNat - a.toNat) = b - a := by
  apply BitVec.eq_of_toNat_eq
  rw [BitVec.toNat_ofNat, BitVec.toNat_sub_of_le (BitVec.le_def.mpr h)]
  exact Nat.mod_eq_of_lt ((Nat.sub_le _ _).trans_lt b.isLt)

/-- A slice inside EXTENT answers its length and its bytes, all of which exist since EXTENT ≤ CAP (R27, R106). -/
theorem answers_curSlice {start stop : Option Word} {s t : State} (hs : s.CursorInv) (h : execCurSlice start stop s = .next t)
    (hf : t.fault = false) : Answers (Instr.curSlice start stop).word s t (resultWords (.curSlice start stop) s t) := by
  unfold execCurSlice at h
  split at h
  · cases h; cases hf
  split at h
  · cases h; cases hf
  split at h
  · cases h; cases hf
  rename_i hstop hstart
  have hcap := hs.extent_le_cap
  have hread := memRead_eq_bytesAt (s := s) (a := (sliceStart start).toNat)
    (n := (sliceStop stop s).toNat - (sliceStart start).toNat) (by omega)
  rw [answerSlice, hread, ofNat_sub_eq (by omega)] at h
  exact answers_of_respond h

theorem exec_answers {i : Instr} {s t : State} (hs : s.CursorInv) (h : exec i s = .next t) (hf : t.fault = false) :
    Answers i.word s t (resultWords i s t) := by
  cases i with
  | nop | rleInit | rowInit | cfg => exact answers_of_finish_ok h rfl
  | curAlloc => exact answers_of_finish h hf (keepsRsp_ok rfl).require
  | curSeek => exact answers_of_finish h hf (keepsRsp_ok rfl).require.requireBit
  | curTell => exact answers_curTell h hf
  | curWrite => exact answers_of_finish h hf (keepsRsp_append _ s).requireBit
  | curSlice => exact answers_curSlice hs h hf
  | packA8 | packBgr565 | packBgra8888 | packAbgr6666 | packAbgr8888 | rd => exact answers_of_respond h
  | rlePush => exact answers_of_finishAdv h hf (keepsRsp_rlePushBody _ _ s).requireBit
  | rleFlush => exact answers_of_finishAdv h hf (keepsRsp_rleFlushBody _ s).requireBit
  | rowPush => exact answers_of_finishAdv h hf (keepsRsp_rowPushBody _ _ s).requireBit
  | rowEnd => exact answers_of_finishAdv h hf (keepsRsp_rowEndBody _ s).requireBit
  | pix => exact answers_of_finishAdv h hf (keepsRsp_emitPixel _ _ s).requireBit.requireBit
  | eor =>
    exact answers_of_finishAdv h hf (keepsRsp_ite (keepsRsp_ok rfl) (keepsRsp_rowEndBody _ s)).requireBit.requireBit
  | eoi =>
    exact answers_of_finishAdv h hf (keepsRsp_ite (keepsRsp_rleFlushBody _ s) (keepsRsp_ok rfl)).requireBit.requireBit

/-- Settles O16, command by command: each ends in one of the three ways of answering. -/
theorem completedCommandsAnswerByTheTable : Obligations.CompletedCommandsAnswerByTheTable := by
  unfold Obligations.CompletedCommandsAnswerByTheTable
  exact fun i s t _ hs h hf => exec_answers hs h hf

end Sys2Proof.Machine
end

/-! # Proofs of the statements of spec/40_cursor.md -/

section
/-! PROOF. The byte cursor's commands: what each does to POS, EXTENT and BUF when its checks pass, and the fault it takes when
one fails. -/

namespace Sys2Proof.Machine

/-! ## Missing configuration (R100, R241) -/

theorem finish_unconfigured {bit : Bool} {w : Word} {s : State} {body : Except Trap State} (h : bit = false) :
    finish w s (requireBit bit w body) = .next (s.faultedBy w .notConfigured w) := by
  rw [h, requireBit_false, finish_error, takeFault_eq_faultedBy]

/-- Whichever of the two bits is missing, the fault is the same (R243). -/
theorem finishAdv_unconfigured {cfg ca : Bool} {w : Word} {s : State} {body : Except Trap State} (h : cfg = false ∨ ca = false) :
    finishAdv w s (requireBit cfg w (requireBit ca w body)) = .next (s.faultedBy w .notConfigured w) := by
  have hbits : requireBit cfg w (requireBit ca w body) = .error ⟨.notConfigured, w⟩ := by
    obtain rfl | rfl := h
    · rfl
    · cases cfg <;> rfl
  rw [hbits, finishAdv_error, takeFault_eq_faultedBy]

theorem exec_curTell_unallocated {s : State} (hca : s.ca = false) :
    exec .curTell s = .next (s.faultedBy Instr.curTell.word .notConfigured Instr.curTell.word) := by
  rw [← takeFault_eq_faultedBy]
  exact if_neg (by simp [hca])

theorem exec_curSlice_unallocated {s : State} (hca : s.ca = false) (start stop : Option Word) :
    exec (.curSlice start stop) s =
      .next (s.faultedBy (Instr.curSlice start stop).word .notConfigured (Instr.curSlice start stop).word) := by
  rw [← takeFault_eq_faultedBy]
  exact if_pos (by simp [hca])

/-- Settles O17: every unit command checks its configuration bit and then the buffer, whose order does not show. -/
theorem unconfiguredCommandsFault : Obligations.UnconfiguredCommandsFault := by
  unfold Obligations.UnconfiguredCommandsFault
  intro i s h
  cases i with
  | curSeek | curWrite => exact finish_unconfigured h
  | curTell => exact exec_curTell_unallocated h
  | curSlice start stop => exact exec_curSlice_unallocated h start stop
  | rlePush | rleFlush | rowPush | rowEnd | pix | eor | eoi => exact finishAdv_unconfigured h
  | _ => exact h.elim

/-! ## CUR_ALLOC, CUR_SEEK and CUR_TELL (R101 to R103) -/

/-- The header of an OK response is the command's opcode at W[31:24] (R81). -/
theorem okHeader_of_opc {i : Instr} {o : Opc} {h : Word} (hi : i.opc = o) (ho : o.byte.setWidth 32 <<< 24 = h) :
    okHeader i.word = h := by
  rw [okHeader, (framed i).1, hi, ho]

theorem okHeader_curAlloc (x : Word) : okHeader (Instr.curAlloc x).word = 0x01000000 :=
  okHeader_of_opc (o := .curAlloc) rfl (by decide)

theorem okHeader_curSeek (x : Word) : okHeader (Instr.curSeek x).word = 0x02000000 :=
  okHeader_of_opc (o := .curSeek) rfl (by decide)

theorem okHeader_curTell : okHeader Instr.curTell.word = 0x03000000 := okHeader_of_opc (o := .curTell) rfl (by decide)

theorem okHeader_curWrite (n : Word) (data : List Word) : okHeader (Instr.curWrite n data).word = 0x04000000 :=
  okHeader_of_opc (o := .curWrite) rfl (by decide)

theorem okHeader_curSlice (start stop : Option Word) : okHeader (Instr.curSlice start stop).word = 0x05000000 :=
  okHeader_of_opc (o := .curSlice) rfl (by decide)

theorem exec_curAlloc_fits {x : Word} (hx : x.toNat ≤ Config.capMax) (s : State) :
    exec (.curAlloc x) s = .next ((s.allocate x).respond [0x01000000]) := by
  show finish _ s (require (decide (x.toNat ≤ Config.capMax)) _ _) = _
  rw [decide_eq_true hx, require_true, finish_ok, okHeader_curAlloc]

theorem exec_curAlloc_above {x : Word} (hx : ¬ x.toNat ≤ Config.capMax) (s : State) :
    exec (.curAlloc x) s = .next (s.faultedBy 0x01000000 .cursorBounds x) := by
  show finish _ s (require (decide (x.toNat ≤ Config.capMax)) _ _) = _
  rw [decide_eq_false hx, require_false, finish_error, takeFault_eq_faultedBy, word_curAlloc]
  rfl

/-- Every byte of a new buffer exists and is 0 (R28, R101). -/
theorem readByte_allocate (s : State) (x : Word) (a : Nat) :
    (s.allocate x).readByte a = if a < x.toNat then some 0 else none := rfl

/-- Settles O18, on both sides of CAP_MAX. -/
theorem curAllocGivesZeroedBuffer : Obligations.CurAllocGivesZeroedBuffer := by
  unfold Obligations.CurAllocGivesZeroedBuffer
  intro x s
  split
  · exact ⟨_, exec_curAlloc_fits (by assumption) s, rfl, readByte_allocate s x⟩
  · exact ⟨_, exec_curAlloc_above (by assumption) s, rfl⟩

/-- A word as the larger of two: EXTENT's high-water mark (R27). -/
theorem ofNat_max_toNat (a b : Word) : BitVec.ofNat 32 (max a.toNat b.toNat) = if a.toNat ≤ b.toNat then b else a := by
  split
  · rw [max_eq_right (by assumption), BitVec.ofNat_toNat, BitVec.setWidth_eq]
  · rw [max_eq_left (by omega), BitVec.ofNat_toNat, BitVec.setWidth_eq]

/-- A move to a word's value sets POS to it and raises EXTENT to it (R27). -/
theorem moveTo_toNat (s : State) (x : Word) :
    s.moveTo x.toNat = { s with pos := x, extent := if s.extent.toNat ≤ x.toNat then x else s.extent } := by
  rw [State.moveTo, ofNat_max_toNat, BitVec.ofNat_toNat, BitVec.setWidth_eq]

/-- Settles O19, on both sides of CAP. -/
theorem curSeekMovesPos : Obligations.CurSeekMovesPos := by
  unfold Obligations.CurSeekMovesPos
  intro x s hca
  have hexec : exec (.curSeek x) s = finish (Instr.curSeek x).word s
      (require (decide (x.toNat ≤ s.cap.toNat)) ⟨.cursorBounds, x⟩ (.ok (s.moveTo x.toNat))) := by
    show finish _ s (requireBit s.ca _ _) = _
    rw [hca, requireBit_true]
  rw [hexec]
  refine ⟨fun hx => ?inside, fun hx => ?past⟩
  case inside =>
    rw [decide_eq_true hx, require_true, finish_ok, okHeader_curSeek, moveTo_toNat]
    rfl
  case past =>
    rw [decide_eq_false (Nat.not_le.mpr hx), require_false, finish_error, takeFault_eq_faultedBy, word_curSeek]
    rfl

theorem exec_curTell_allocated {s : State} (hca : s.ca = true) :
    exec .curTell s = .next (s.respond [0x03000000, s.pos]) := by
  rw [← okHeader_curTell]
  exact if_pos hca

/-- Settles O20: the buffer is allocated, so POS is answered. -/
theorem curTellAnswersPos : Obligations.CurTellAnswersPos := by
  unfold Obligations.CurTellAnswersPos
  exact fun s hca => exec_curTell_allocated hca

/-! ## The bytes that port words carry (R53, R74, R81) -/

/-- Byte k of a word sequence at a port, D[k div 4][8*(k mod 4)+7 : 8*(k mod 4)] (R74); 0 past the last word. -/
def portByte (ws : List Word) (k : Nat) : Byte := (ws.getD (k / 4) 0).extractLsb' (8 * (k % 4)) 8

@[simp] theorem portByte_nil (k : Nat) : portByte [] k = 0 := by simp [portByte]

theorem portByte_cons_of_lt {w : Word} {ws : List Word} {k : Nat} (hk : k < 4) :
    portByte (w :: ws) k = w.extractLsb' (8 * k) 8 := by
  rw [portByte, Nat.div_eq_of_lt hk, Nat.mod_eq_of_lt hk, List.getD_cons_zero]

@[simp] theorem portByte_cons_add (w : Word) (ws : List Word) (k : Nat) : portByte (w :: ws) (k + 4) = portByte ws k := by
  rw [portByte, Nat.add_div_right k (by decide), Nat.add_mod_right, List.getD_cons_succ, portByte]

/-- The bytes of a word sequence, one by one. -/
theorem flatMap_leBytes_getD : ∀ (ws : List Word) (k : Nat), (ws.flatMap leBytes).getD k 0 = portByte ws k
  | [], k => (portByte_nil k).symm
  | w :: ws, 0 | w :: ws, 1 | w :: ws, 2 | w :: ws, 3 => rfl
  | w :: ws, k + 4 => by
    rw [portByte_cons_add, ← flatMap_leBytes_getD ws k]
    rfl

/-- The bytes that CUR_WRITE appends are the first N of its data words (R74). -/
theorem writeData_getD {n : Word} {data : List Word} {k : Nat} (hk : k < n.toNat) :
    (writeData n data).getD k 0 = portByte data k := by
  rw [← flatMap_leBytes_getD, writeData, List.getD_eq_getElem?_getD, List.getElem?_take_of_lt hk, ← List.getD_eq_getElem?_getD]

/-- Byte k of the word that carries a byte sequence is its k-th byte, 0 past its end (R53). -/
theorem fromLE_extract : ∀ (bs : List Byte) {k : Nat}, k < 4 → (fromLE bs).extractLsb' (8 * k) 8 = bs.getD k 0
  | [], k, _ => by simp [fromLE]
  | b :: bs, 0, _ => extract_head b (fromLE bs)
  | b :: bs, k + 1, hk => by
    rw [List.getD_cons_succ, ← fromLE_extract bs (k := k) (by omega)]
    exact extract_tail b (fromLE bs) (8 * k) (by omega)

/-- One word carries a sequence of at most four bytes. -/
theorem portByte_fromLE {bs : List Byte} (hbs : bs.length ≤ 4) (k : Nat) : portByte [fromLE bs] k = bs.getD k 0 := by
  rcases Nat.lt_or_ge k 4 with hk | hk
  · rw [portByte_cons_of_lt hk, fromLE_extract bs hk]
  · obtain ⟨j, rfl⟩ := Nat.exists_eq_add_of_le' hk
    rw [portByte_cons_add, portByte_nil, List.getD_eq_default _ _ (by omega)]

/-- A response carries its bytes in order, and 0 in the high bytes of the last word that it does not use (R81). -/
theorem portByte_wordsOf : ∀ (bs : List Byte) (k : Nat), portByte (wordsOf bs) k = bs.getD k 0
  | b0 :: b1 :: b2 :: b3 :: bs, k + 4 => by
    rw [wordsOf, portByte_cons_add, portByte_wordsOf bs k]
    rfl
  | b0 :: b1 :: b2 :: b3 :: bs, 0 | b0 :: b1 :: b2 :: b3 :: bs, 1 | b0 :: b1 :: b2 :: b3 :: bs, 2
  | b0 :: b1 :: b2 :: b3 :: bs, 3 => fromLE_extract [b0, b1, b2, b3] (by decide)
  | [], k => portByte_nil k
  | [_], k | [_, _], k | [_, _, _], k => portByte_fromLE (by simp) k

/-! ## CUR_WRITE (R104, R105) -/

/-- A write at POS that goes on to its own end advances POS and EXTENT to it (R26, R27). -/
theorem State.CursorInv.advanced_writeAt {s : State} {n : Nat} (hs : s.CursorInv) (bs : List Byte)
    (hfits : s.pos.toNat + n ≤ s.cap.toNat) : s.Advanced (s.writeAt bs (s.pos.toNat + n)) n :=
  ⟨toNat_ofNat_of_le hfits, toNat_ofNat_of_le (max_le hs.extent_le_cap hfits)⟩

/-- A write at POS changes the bytes it names and no other (R51). -/
theorem State.wrote_writeAt {s : State} (hm : Memory.wf s.buf = true) (bs : List Byte) (stop : Nat) :
    s.Wrote (s.writeAt bs stop) bs :=
  fun a => Memory.read_writeAll s.pos.toNat bs a hm

/-- FINFO of a bounds fault as R242 gives it. -/
theorem saturate_eq_boundsInfo (n : Nat) : saturate n = boundsInfo n := rfl

section
variable {n : Word} {data : List Word} {s : State} (hwf : (Instr.curWrite n data).wellFormed = true) (hca : s.ca = true)
include hwf hca

theorem exec_curWrite_fits (hfits : s.pos.toNat + n.toNat ≤ s.cap.toNat) :
    exec (.curWrite n data) s = .next ((s.writeAt (writeData n data) (s.pos.toNat + n.toNat)).respond [0x04000000]) := by
  have happend : append (writeData n data) s = .ok (s.writeAt (writeData n data) (s.pos.toNat + n.toNat)) :=
    append_eq_ok.mpr (by rw [writeData_length hwf]; exact ⟨hfits, rfl⟩)
  show finish _ s (requireBit s.ca _ _) = _
  rw [hca, requireBit_true, happend, finish_ok, okHeader_curWrite]

theorem exec_curWrite_past (hpast : s.cap.toNat < s.pos.toNat + n.toNat) :
    exec (.curWrite n data) s = .next (s.faultedBy 0x04000000 .cursorBounds (boundsInfo (s.pos.toNat + n.toNat))) := by
  have happend : append (writeData n data) s = .error ⟨.cursorBounds, saturate (s.pos.toNat + n.toNat)⟩ :=
    append_eq_error.mpr (by rw [writeData_length hwf]; exact ⟨hpast, rfl⟩)
  show finish _ s (requireBit s.ca _ _) = _
  rw [hca, requireBit_true, happend, finish_error, takeFault_eq_faultedBy, word_curWrite, saturate_eq_boundsInfo]
  rfl

end

/-- Settles O21: a write of bytes at POS, each of which is the data words' byte of that number. -/
theorem curWriteAppendsItsBytes : Obligations.CurWriteAppendsItsBytes := by
  unfold Obligations.CurWriteAppendsItsBytes
  intro n data s hwf hca hs
  refine ⟨fun hfits => ⟨_, exec_curWrite_fits hwf hca hfits, rfl, hs.advanced_writeAt _ hfits, fun a => ?bytes⟩,
    exec_curWrite_past hwf hca⟩
  refine (State.wrote_writeAt hs.buf_canonical (writeData n data) (s.pos.toNat + n.toNat) a).trans ?_
  rw [writeData_length hwf]
  split
  · exact writeData_getD (by omega)
  · rfl

/-! ## CUR_SLICE (R106) -/

section
variable {s : State} (hca : s.ca = true) (start stop : Option Word)
include hca

theorem exec_curSlice_past (h : s.extent.toNat < (sliceStop stop s).toNat) :
    exec (.curSlice start stop) s =
      .next (s.faultedBy (Instr.curSlice start stop).word .sliceRange (sliceStop stop s)) := by
  show execCurSlice start stop s = _
  rw [execCurSlice, if_neg (by simp [hca]), if_pos h, takeFault_eq_faultedBy]

theorem exec_curSlice_reversed (hstop : (sliceStop stop s).toNat ≤ s.extent.toNat)
    (h : (sliceStop stop s).toNat < (sliceStart start).toNat) :
    exec (.curSlice start stop) s =
      .next (s.faultedBy (Instr.curSlice start stop).word .sliceRange (sliceStart start)) := by
  show execCurSlice start stop s = _
  rw [execCurSlice, if_neg (by simp [hca]), if_neg (Nat.not_lt.mpr hstop), if_pos h, takeFault_eq_faultedBy]

/-- All bytes of a slice inside EXTENT exist, since EXTENT ≤ CAP (R108). -/
theorem exec_curSlice_inside (hs : s.CursorInv) (hstart : (sliceStart start).toNat ≤ (sliceStop stop s).toNat)
    (hstop : (sliceStop stop s).toNat ≤ s.extent.toNat) :
    exec (.curSlice start stop) s =
      .next (s.respond (0x05000000 :: (sliceStop stop s - sliceStart start) ::
        wordsOf (s.bytesAt (sliceStart start).toNat ((sliceStop stop s).toNat - (sliceStart start).toNat)))) := by
  have hcap := hs.extent_le_cap
  show execCurSlice start stop s = _
  rw [execCurSlice, if_neg (by simp [hca]), if_neg (Nat.not_lt.mpr hstop), if_neg (Nat.not_lt.mpr hstart), answerSlice,
    memRead_eq_bytesAt (by omega), ofNat_sub_eq hstart, okHeader_curSlice]

end

@[simp] theorem State.bytesAt_length (s : State) (a n : Nat) : (s.bytesAt a n).length = n := by simp [State.bytesAt]

theorem State.bytesAt_getD (s : State) (a n k : Nat) :
    (s.bytesAt a n).getD k 0 = if k < n then Memory.read s.buf (a + k) else 0 := by
  rcases Nat.lt_or_ge k n with hk | hk
  · simp [State.bytesAt, hk]
  · rw [if_neg hk.not_gt, List.getD_eq_default _ _ (by rwa [State.bytesAt_length])]

/-- Settles O22: inside EXTENT the words of the response carry exactly the slice's bytes; outside, the two checks in order. -/
theorem curSliceAnswersTheBytes : Obligations.CurSliceAnswersTheBytes := by
  unfold Obligations.CurSliceAnswersTheBytes
  rintro start stop s _ _ hca hs rfl rfl
  refine ⟨fun hstart hstop => ⟨_, exec_curSlice_inside hca start stop hs hstart hstop, ?length, fun k _ => ?bytes⟩,
    exec_curSlice_past hca start stop, exec_curSlice_reversed hca start stop⟩
  case length => rw [wordsOf_length, State.bytesAt_length]; rfl
  case bytes => exact (portByte_wordsOf _ k).trans (State.bytesAt_getD s _ _ k)

/-! ## No step stops (R28, R108) -/

theorem exists_finish_next (w : Word) (s : State) (r : Except Trap State) : ∃ t, finish w s r = .next t := by
  cases r <;> exact ⟨_, rfl⟩

theorem exists_finishAdv_next (w : Word) (s : State) (r : Except Trap State) : ∃ t, finishAdv w s r = .next t := by
  cases r <;> exact ⟨_, rfl⟩

theorem exists_curTell_next (s : State) : ∃ t, exec .curTell s = .next t := by
  cases hca : s.ca with
  | false => exact ⟨_, exec_curTell_unallocated hca⟩
  | true => exact ⟨_, exec_curTell_allocated hca⟩

/-- CUR_SLICE, the only command that reads BUF, reads only bytes that exist. -/
theorem exists_curSlice_next {s : State} (hs : s.CursorInv) (start stop : Option Word) :
    ∃ t, exec (.curSlice start stop) s = .next t := by
  cases hca : s.ca with
  | false => exact ⟨_, exec_curSlice_unallocated hca start stop⟩
  | true =>
    rcases Nat.lt_or_ge s.extent.toNat (sliceStop stop s).toNat with hpast | hstop
    · exact ⟨_, exec_curSlice_past hca start stop hpast⟩
    rcases Nat.lt_or_ge (sliceStop stop s).toNat (sliceStart start).toNat with hrev | hstart
    · exact ⟨_, exec_curSlice_reversed hca start stop hstop hrev⟩
    · exact ⟨_, exec_curSlice_inside hca start stop hs hstart hstop⟩

/-- With the cursor's invariant every command has a next state. -/
theorem exists_exec_next {s : State} (hs : s.CursorInv) (i : Instr) : ∃ t, exec i s = .next t := by
  cases i with
  | curTell => exact exists_curTell_next s
  | curSlice start stop => exact exists_curSlice_next hs start stop
  | nop | packA8 | packBgr565 | packBgra8888 | packAbgr6666 | packAbgr8888 | rleInit | rowInit | cfg | rd => exact ⟨_, rfl⟩
  | curAlloc | curSeek | curWrite => exact exists_finish_next _ s _
  | rlePush | rleFlush | rowPush | rowEnd | pix | eor | eoi => exact exists_finishAdv_next _ s _

theorem exists_acceptWord_next {s : State} (hs : s.CursorInv) (w : Word) : ∃ t, acceptWord w s = .next t := by
  unfold acceptWord
  split
  · exact ⟨s, rfl⟩
  split
  · exact ⟨_, rfl⟩
  · exact ⟨_, rfl⟩
  · refine exists_exec_next ?_ _
    exact hs.congr rfl

/-- Settles O52: of the events only a word can run a command, and no command stops. -/
theorem invariantStatesNeverStop : Obligations.InvariantStatesNeverStop := by
  unfold Obligations.InvariantStatesNeverStop
  intro s hs
  cases hin : s.input with
  | nil => exact ⟨s, by simp only [step, handleEvent, hin]⟩
  | cons e evs =>
    cases e with
    | commandWord w =>
      rw [State.safe, step_commandWord hin]
      refine exists_acceptWord_next ?_ w
      exact hs.cursor.congr rfl
    | resetInput | deliver => simp only [State.safe, step, handleEvent, hin, Host.Outcome.next.injEq, exists_eq']

end Sys2Proof.Machine
end


/-! # Proofs of the statements of spec/41_rle.md -/

section
/-! PROOF. What one RLE_PUSH, RLE_FLUSH and RLE_INIT do: a push or flush is one append of at most one section (R129) and a new
state of the encoder. -/

namespace Sys2Proof.Machine

/-! ## Emission is one append (R121) -/

theorem controlByte_raw {n : Nat} (hn : n < 128) : controlByte .raw n = BitVec.ofNat 8 n := by
  have hall : ∀ k : Fin 128, controlByte .raw k = BitVec.ofNat 8 k := by decide
  exact hall ⟨n, hn⟩

theorem controlByte_compress {n : Nat} (hn : n < 128) : controlByte .compress n = BitVec.ofNat 8 (128 + n) := by
  have hall : ∀ k : Fin 128, controlByte .compress k = BitVec.ofNat 8 (128 + k) := by decide
  exact hall ⟨n, hn⟩

/-- A write of no byte leaves POS where it is, and EXTENT is not below it (R27). -/
theorem State.CursorInv.writeAt_nil {s : State} (hs : s.CursorInv) : s.writeAt [] (s.pos.toNat + 0) = s := by
  simp only [State.writeAt, State.moveTo, Memory.writeAll, Nat.add_zero, max_eq_left hs.pos_le_extent, BitVec.ofNat_toNat,
    BitVec.setWidth_eq]

theorem State.CursorInv.append_nil {s : State} (hs : s.CursorInv) : Machine.append [] s = .ok s :=
  append_eq_ok.mpr ⟨hs.pos_le_extent.trans hs.extent_le_cap, hs.writeAt_nil.symm⟩

/-- The bytes of a section, none when it is empty (R120, R121). -/
theorem State.CursorInv.emitSection_eq_append {s : State} (hs : s.CursorInv) (m : RleMode) (n : Nat) (bs : List Byte) :
    Machine.emitSection m n bs s = Machine.append (if n = 0 then [] else controlByte m n :: bs) s := by
  unfold Machine.emitSection
  split
  · exact hs.append_nil.symm
  · rfl

/-- An append and what is done after it: the bytes fit, or the trap (R104). -/
theorem map_append (bs : List Byte) (s : State) (f : State → State) :
    (append bs s).map f =
      if s.cap.toNat < s.pos.toNat + bs.length then .error ⟨.cursorBounds, saturate (s.pos.toNat + bs.length)⟩
      else .ok (f (s.writeAt bs (s.pos.toNat + bs.length))) := by
  unfold append
  split <;> rfl

/-- An append neither reads nor writes the encoder, and what is done after it shows only on the state it leaves. -/
theorem map_append_withEncoder {bs : List Byte} {s : State} (e : State) {f g : State → State}
    (h : f ((s.writeAt bs (s.pos.toNat + bs.length)).withEncoder e) = g (s.writeAt bs (s.pos.toNat + bs.length))) :
    (append bs (s.withEncoder e)).map f = (append bs s).map g := by
  rw [map_append, map_append]
  exact congrArg (ite _ _) (congrArg Except.ok h)

/-! ## The branches of RLE_PUSH (R124 to R127) -/

/-- What pushing the pixel p does in state `s`: the section it emits, and the state whose encoder the block then has. -/
inductive PushStep (s : State) (p : Pixel) : List Byte → State → Prop
  | counts (hm : s.rleMode = .compress) (hp : p = s.lastPixel) (hc : s.rleCnt.toNat ≠ 126) :
      PushStep s p [] { s with rleCnt := s.rleCnt + 1 }
  | fillsRun (hm : s.rleMode = .compress) (hp : p = s.lastPixel) (hc : s.rleCnt.toNat = 126) :
      PushStep s p (0xFF#8 :: s.lastPixel) s.rleIdle
  | endsRun (hm : s.rleMode = .compress) (hp : p ≠ s.lastPixel) :
      PushStep s p (if s.rleCnt.toNat = 0 then [] else BitVec.ofNat 8 (128 + s.rleCnt.toNat) :: s.lastPixel)
        (s.rleIdle.setPending p)
  | startsRun (hm : s.rleMode = .raw) (hpend : s.rlePend = true) (hp : p = s.lastPixel) :
      PushStep s p (if s.rleCnt.toNat = 0 then [] else BitVec.ofNat 8 s.rleCnt.toNat :: s.rawBuf.flatten)
        { s with rawBuf := [], rleMode := .compress, rleCnt := 2, rlePend := false }
  | pends (hm : s.rleMode = .raw) (hpend : s.rlePend = false) : PushStep s p [] (s.setPending p)
  | commits (hm : s.rleMode = .raw) (hpend : s.rlePend = true) (hp : p ≠ s.lastPixel) (hc : s.rleCnt.toNat ≠ 126) :
      PushStep s p [] (s.commitPending.setPending p)
  | fillsRaw (hm : s.rleMode = .raw) (hpend : s.rlePend = true) (hp : p ≠ s.lastPixel) (hc : s.rleCnt.toNat = 126) :
      PushStep s p (0x7F#8 :: (s.rawBuf ++ [s.lastPixel]).flatten) ({ s with rawBuf := [], rleCnt := 0 }.setPending p)

/-- Every push takes one of the branches, and emits what R124 to R127 say. -/
theorem exists_pushStep (s : State) (p : Pixel) : ∃ e, PushStep s p (s.pushSection p) e := by
  unfold State.pushSection
  split
  · rename_i hm
    split
    · rename_i hp
      split
      · exact ⟨_, .fillsRun hm hp (by assumption)⟩
      · exact ⟨_, .counts hm hp (by assumption)⟩
    · exact ⟨_, .endsRun hm (by assumption)⟩
  · rename_i hm
    split
    · rename_i hpend
      split
      · exact ⟨_, .startsRun hm hpend (by assumption)⟩
      · split
        · exact ⟨_, .fillsRaw hm hpend (by assumption) (by assumption)⟩
        · exact ⟨_, .commits hm hpend (by assumption) (by assumption)⟩
    · rename_i hpend
      exact ⟨_, .pends hm (by simpa using hpend)⟩

theorem rleCnt_succ_eq_maxCount (c : BitVec 7) : (c + 1).toNat = maxCount ↔ c.toNat = 126 := by
  simp only [BitVec.toNat_add, BitVec.ofNat_eq_ofNat, BitVec.toNat_ofNat, maxCount]
  omega

theorem rlePixel_compress {s : State} (hm : s.rleMode = .compress) (p : Pixel) :
    rlePixel p s = if p = s.lastPixel then rleContinue s else rleEndRun p s := by
  rw [rlePixel, hm]

theorem rlePixel_raw {s : State} (hm : s.rleMode = .raw) (p : Pixel) :
    rlePixel p s = if s.rlePend = true ∧ p = s.lastPixel then rleStartRun s else rleLiteral p s := by
  rw [rlePixel, hm]

theorem rleLiteral_pending {s : State} (hpend : s.rlePend = true) (p : Pixel) :
    rleLiteral p s =
      if s.rleCnt.toNat = 126 then
        (emitSection .raw maxCount s.commitPending.rawBuf.flatten s.commitPending).map fun t =>
          { t with rawBuf := [], rleCnt := 0 }.setPending p
      else .ok (s.commitPending.setPending p) := by
  have hfull : s.commitPending.rleCnt.toNat = maxCount ↔ s.rleCnt.toNat = 126 := rleCnt_succ_eq_maxCount _
  rw [rleLiteral, hpend, Bool.not_true, if_neg Bool.false_ne_true]
  exact if_congr hfull rfl rfl

/-- RLE_PUSH's body is the append of the branch's section and the branch's new encoder (R123). -/
theorem PushStep.rlePixel_eq {s e : State} {p : Pixel} {sec : List Byte} (h : PushStep s p sec e) (hs : s.CursorInv) :
    rlePixel p s = (append sec s).map (·.withEncoder e) := by
  have hcnt : s.rleCnt.toNat < 128 := s.rleCnt.isLt
  have hcommit : s.commitPending.CursorInv := hs.congr rfl
  cases h with
  | counts hm hp hc =>
    rw [rlePixel_compress hm, if_pos hp, rleContinue, if_neg ((rleCnt_succ_eq_maxCount _).not.mpr hc), hs.append_nil]
    rfl
  | fillsRun hm hp hc =>
    rw [rlePixel_compress hm, if_pos hp, rleContinue, if_pos ((rleCnt_succ_eq_maxCount _).mpr hc), hs.emitSection_eq_append]
    rfl
  | endsRun hm hp =>
    rw [rlePixel_compress hm, if_neg hp, rleEndRun, hs.emitSection_eq_append, controlByte_compress hcnt]
    rfl
  | startsRun hm hpend hp =>
    rw [rlePixel_raw hm, if_pos ⟨hpend, hp⟩, rleStartRun, hs.emitSection_eq_append, controlByte_raw hcnt]
    exact map_append_withEncoder s rfl
  | pends hm hpend =>
    rw [rlePixel_raw hm, if_neg (by simp [hpend]), rleLiteral, hpend, hs.append_nil]
    rfl
  | commits hm hpend hp hc =>
    rw [rlePixel_raw hm, if_neg (by simp [hp]), rleLiteral_pending hpend, if_neg hc, hs.append_nil]
    rfl
  | fillsRaw hm hpend hp hc =>
    rw [rlePixel_raw hm, if_neg (by simp [hp]), rleLiteral_pending hpend, if_pos hc, hcommit.emitSection_eq_append]
    exact map_append_withEncoder s.commitPending rfl

/-- RLE_FLUSH's body is the append of the trailing section, and Idle (R128). -/
theorem rleFinish_eq {s : State} (hs : s.CursorInv) (h : s.isIdle ∨ s.isRaw ∨ s.isCompress) :
    rleFinish s = (append s.flushSection s).map (·.withEncoder s.rleIdle) := by
  have hcnt : s.rleCnt.toNat < 128 := s.rleCnt.isLt
  have hcommit : s.commitPending.CursorInv := hs.congr rfl
  obtain ⟨hm, hpend, -⟩ | ⟨hm, hpend, hle, -⟩ | ⟨hm, -⟩ := h
  · have hbody : rleFinish s = (emitSection .raw s.rleCnt.toNat s.rawBuf.flatten s).map State.rleIdle := by
      simp [rleFinish, hm, hpend]
    have hsec : s.flushSection = if s.rleCnt.toNat = 0 then [] else BitVec.ofNat 8 s.rleCnt.toNat :: s.rawBuf.flatten := by
      simp [State.flushSection, hm, hpend]
    rw [hbody, hsec, hs.emitSection_eq_append, controlByte_raw hcnt]
    rfl
  · have hsucc : s.commitPending.rleCnt.toNat = s.rleCnt.toNat + 1 := rleCnt_succ_toNat hle
    have hbody : rleFinish s = (emitSection .raw (s.rleCnt.toNat + 1) s.commitPending.rawBuf.flatten
        s.commitPending).map State.rleIdle := by
      rw [← hsucc, rleFinish, hm, hpend]
      rfl
    have hsec : s.flushSection = BitVec.ofNat 8 (s.rleCnt.toNat + 1) :: s.commitPending.rawBuf.flatten := by
      simp [State.flushSection, State.commitPending, hm, hpend]
    rw [hbody, hsec, hcommit.emitSection_eq_append, if_neg (Nat.succ_ne_zero _), controlByte_raw (by omega)]
    exact map_append_withEncoder s.commitPending rfl
  · rw [rleFinish, hm, hs.emitSection_eq_append, controlByte_compress hcnt, State.flushSection, hm]
    rfl

/-! ## The three commands (R122, R123, R128) -/

theorem okHeader_rleInit (b : BitVec 2) : okHeader (Instr.rleInit b).word = 0x20000000 :=
  okHeader_of_opc (o := .rleInit) rfl (by decide)

theorem okHeader_rlePush (p : Word) : okHeader (Instr.rlePush p).word = 0x21000000 :=
  okHeader_of_opc (o := .rlePush) rfl (by decide)

theorem okHeader_rleFlush : okHeader Instr.rleFlush.word = 0x22000000 := okHeader_of_opc (o := .rleFlush) rfl (by decide)

/-- The state after a push or flush that emits the section `sec` and answers with header `h`: the encoder is that of `e`, and
ADV is the section's length (R123, R128). -/
def State.emitted (s : State) (h : Word) (sec : List Byte) (e : State) : State :=
  ((s.writeAt sec (s.pos.toNat + sec.length)).withEncoder e).respond [h, BitVec.ofNat 32 sec.length]

/-- A push that emits nothing changes the encoder only. -/
theorem State.CursorInv.emitted_nil {s : State} (hs : s.CursorInv) (h : Word) (e : State) :
    s.emitted h [] e = (s.withEncoder e).respond [h, 0] := by
  rw [State.emitted, List.length_nil, hs.writeAt_nil]
  rfl

/-- A section that fits is written at POS, and POS and EXTENT go on by its length (R104). -/
theorem State.CursorInv.emitted_effect {s : State} (hs : s.CursorInv) (h : Word) {sec : List Byte} (e : State)
    (hfits : s.pos.toNat + sec.length ≤ s.cap.toNat) :
    s.Wrote (s.emitted h sec e) sec ∧ s.Advanced (s.emitted h sec e) sec.length :=
  ⟨State.wrote_writeAt hs.buf_canonical sec (s.pos.toNat + sec.length), hs.advanced_writeAt sec hfits⟩

theorem finishAdv_emits {w h : Word} {s : State} {sec : List Byte} (e : State) (hw : okHeader w = h)
    (hfits : s.pos.toNat + sec.length ≤ s.cap.toNat) :
    finishAdv w s ((append sec s).map (·.withEncoder e)) = .next (s.emitted h sec e) := by
  have hadv : BitVec.ofNat 32 (s.pos.toNat + sec.length) - s.pos = BitVec.ofNat 32 sec.length := by
    rw [BitVec.ofNat_add, BitVec.ofNat_toNat, BitVec.setWidth_eq, add_sub_cancel_left]
  rw [map_append, if_neg (Nat.not_lt.mpr hfits), finishAdv_ok, hw, State.emitted, ← hadv]
  rfl

theorem fits_of_finishAdv {w : Word} {s e t : State} {sec : List Byte}
    (h : finishAdv w s ((append sec s).map (·.withEncoder e)) = .next t) (ht : t.fault = false) :
    s.pos.toNat + sec.length ≤ s.cap.toNat := by
  by_contra hpast
  rw [map_append, if_pos (Nat.not_le.mp hpast), finishAdv_error] at h
  cases h
  cases ht

section
variable {s : State} (hs : s.CursorInv) (hcfg : s.rleCfg = true) (hca : s.ca = true)
include hs hcfg hca

/-- RLE_PUSH on a configured encoder, by branch (R123). -/
theorem exec_rlePush_eq {p : Word} {sec : List Byte} {e : State} (h : PushStep s (pixelOf (bppOf s.rleBpm1) p) sec e) :
    exec (.rlePush p) s = finishAdv (Instr.rlePush p).word s ((append sec s).map (·.withEncoder e)) := by
  show finishAdv _ s (requireBit s.rleCfg _ (requireBit s.ca _ _)) = _
  rw [hcfg, requireBit_true, hca, requireBit_true, h.rlePixel_eq hs]

/-- RLE_FLUSH on a configured encoder (R128). -/
theorem exec_rleFlush_eq (h : s.isIdle ∨ s.isRaw ∨ s.isCompress) :
    exec .rleFlush s = finishAdv Instr.rleFlush.word s ((append s.flushSection s).map (·.withEncoder s.rleIdle)) := by
  show finishAdv _ s (requireBit s.rleCfg _ (requireBit s.ca _ _)) = _
  rw [hcfg, requireBit_true, hca, requireBit_true, rleFinish_eq hs h]

theorem exec_rlePush_fits {p : Word} {sec : List Byte} {e : State} (h : PushStep s (pixelOf (bppOf s.rleBpm1) p) sec e)
    (hfits : s.pos.toNat + sec.length ≤ s.cap.toNat) : exec (.rlePush p) s = .next (s.emitted 0x21000000 sec e) := by
  rw [exec_rlePush_eq hs hcfg hca h, finishAdv_emits e (okHeader_rlePush p) hfits]

/-- A push that emits nothing always completes, with ADV = 0. -/
theorem exec_rlePush_quiet {p : Word} {e : State} (h : PushStep s (pixelOf (bppOf s.rleBpm1) p) [] e) :
    exec (.rlePush p) s = .next ((s.withEncoder e).respond [0x21000000, 0]) := by
  rw [exec_rlePush_fits hs hcfg hca h (hs.pos_le_extent.trans hs.extent_le_cap), hs.emitted_nil]

theorem exec_rleFlush_fits (h : s.isIdle ∨ s.isRaw ∨ s.isCompress)
    (hfits : s.pos.toNat + s.flushSection.length ≤ s.cap.toNat) :
    exec .rleFlush s = .next (s.emitted 0x22000000 s.flushSection s.rleIdle) := by
  rw [exec_rleFlush_eq hs hcfg hca h, finishAdv_emits s.rleIdle okHeader_rleFlush hfits]

end

/-! ## The statements -/

@[simp] theorem State.lastPixel_length (s : State) : s.lastPixel.length = bppOf s.rleBpm1 := pixelOf_length _ _

theorem State.setPending_of_pending {s : State} (hpend : s.rlePend = true) (p : Pixel) :
    s.setPending p = { s with rleLast := fromLE p } := by
  rw [State.setPending, ← hpend]

theorem State.rleIdle_of_rawBuf_nil {s : State} (hraw : s.rawBuf = []) :
    s.rleIdle = { s with rleMode := .raw, rlePend := false, rleCnt := 0, rleLast := 0 } := by
  rw [State.rleIdle, ← hraw]

/-- Settles O29: RLE_INIT has no check to fail. -/
theorem rleInitEmptiesEncoder : Obligations.RleInitEmptiesEncoder := by
  unfold Obligations.RleInitEmptiesEncoder
  intro b s
  show finish _ s (.ok _) = _
  rw [finish_ok, okHeader_rleInit]
  rfl

/-- Settles O30: the run is counted, or fills its section. -/
theorem rlePushContinuesRun : Obligations.RlePushContinuesRun := by
  unfold Obligations.RlePushContinuesRun
  rintro p s hs hcfg hca ⟨hm, -, -, -, hraw⟩ hp
  refine ⟨fun hc => ?counts, fun hc hfits => ?fills⟩
  case counts => exact exec_rlePush_quiet hs hcfg hca (.counts hm hp hc.ne)
  case fills =>
    have hlen : (0xFF#8 :: s.lastPixel).length = 1 + bppOf s.rleBpm1 := by simp [Nat.add_comm]
    rw [← hlen] at hfits ⊢
    refine ⟨_, exec_rlePush_fits hs hcfg hca (.fillsRun hm hp hc) hfits, ?_, hs.emitted_effect _ _ hfits⟩
    rw [State.rleIdle_of_rawBuf_nil hraw]
    rfl

/-- Settles O31: a run has been counted at least twice, so its section is not empty. -/
theorem rlePushEndsRun : Obligations.RlePushEndsRun := by
  unfold Obligations.RlePushEndsRun
  rintro p s hs hcfg hca ⟨hm, -, hlo, -, -⟩ hp hfits
  have hstep := PushStep.endsRun hm hp
  rw [if_neg (by omega)] at hstep
  have hlen : (BitVec.ofNat 8 (128 + s.rleCnt.toNat) :: s.lastPixel).length = 1 + bppOf s.rleBpm1 := by simp [Nat.add_comm]
  rw [← hlen] at hfits ⊢
  exact ⟨_, exec_rlePush_fits hs hcfg hca hstep hfits, rfl, hs.emitted_effect _ _ hfits⟩

/-- Settles O32: the section is the one of the branch, empty or not. -/
theorem rlePushStartsRun : Obligations.RlePushStartsRun := by
  unfold Obligations.RlePushStartsRun
  rintro p s sec hs hcfg hca ⟨hm, hpend, -, -⟩ hp rfl hfits
  exact ⟨_, exec_rlePush_fits hs hcfg hca (.startsRun hm hpend hp) hfits, rfl, hs.emitted_effect _ _ hfits⟩

/-- Settles O33: the pending pixel, if there is one, is committed, and may fill the raw section. -/
theorem rlePushCommitsPendingPixel : Obligations.RlePushCommitsPendingPixel := by
  unfold Obligations.RlePushCommitsPendingPixel
  rintro p s hs hcfg hca
  refine ⟨fun ⟨hm, hpend, _⟩ => ?pends, fun ⟨hm, hpend, _⟩ hp hc => ?commits, fun ⟨hm, hpend, _⟩ hp hc hfits => ?fills⟩
  case pends => exact exec_rlePush_quiet hs hcfg hca (.pends hm hpend)
  case commits =>
    have hexec := exec_rlePush_quiet hs hcfg hca (.commits hm hpend hp hc.ne)
    rwa [State.setPending_of_pending (s := s.commitPending) hpend] at hexec
  case fills =>
    have hlen : (0x7F#8 :: (s.rawBuf ++ [s.lastPixel]).flatten).length = 1 + (s.rawBuf ++ [s.lastPixel]).flatten.length :=
      Nat.add_comm _ _
    rw [← hlen] at hfits ⊢
    refine ⟨_, exec_rlePush_fits hs hcfg hca (.fillsRaw hm hpend hp hc) hfits, ?_, hs.emitted_effect _ _ hfits⟩
    rw [State.setPending_of_pending (s := { s with rawBuf := [], rleCnt := 0 }) hpend]
    rfl

/-- The trailing section of each of R33's three states. -/
theorem flushSection_cases {s : State} {sec : List Byte} (h : s.isIdle ∨ s.isRaw ∨ s.isCompress) (hidle : s.isIdle → sec = [])
    (hraw : s.isRaw → sec = BitVec.ofNat 8 (s.rleCnt.toNat + 1) :: (s.rawBuf ++ [s.lastPixel]).flatten)
    (hcompress : s.isCompress → sec = BitVec.ofNat 8 (128 + s.rleCnt.toNat) :: s.lastPixel) : s.flushSection = sec := by
  obtain h | h | h := h
  · obtain ⟨hm, hpend, hcnt, -⟩ := id h
    simp [hidle h, State.flushSection, hm, hpend, hcnt]
  · obtain ⟨hm, hpend, -⟩ := id h
    simp [hraw h, State.flushSection, hm, hpend]
  · obtain ⟨hm, -, hlo, -⟩ := id h
    rw [hcompress h, State.flushSection, hm]
    exact if_neg (by omega)

/-- Settles O34: in each of the three states the flush appends its trailing section and goes to Idle. -/
theorem rleFlushEmitsTrailingSection : Obligations.RleFlushEmitsTrailingSection := by
  unfold Obligations.RleFlushEmitsTrailingSection
  intro s sec hs hcfg hca h hidle hraw hcompress hfits
  obtain rfl := flushSection_cases h hidle hraw hcompress
  exact ⟨_, exec_rleFlush_fits hs hcfg hca h hfits, rfl, hs.emitted_effect _ _ hfits⟩

end Sys2Proof.Machine
end

section
/-! PROOF. The bytes appended one section after the other, the pixels a section stands for and the pixels the encoder holds: each
push moves the held pixels and the pushed one into the section it emits and the pixels held next. -/

namespace Sys2Proof.Machine

/-! ## Appended bytes -/

/-- Between the two states exactly the bytes `bs` were appended at POS (R104). -/
def State.Appended (s t : State) (bs : List Byte) : Prop := s.Wrote t bs ∧ t.pos.toNat = s.pos.toNat + bs.length

theorem State.Appended.trans {s u t : State} {bs cs : List Byte} (hsu : s.Appended u bs) (hut : u.Appended t cs) :
    s.Appended t (bs ++ cs) := by
  obtain ⟨hbs, hu⟩ := hsu
  obtain ⟨hcs, ht⟩ := hut
  refine ⟨fun a => ?_, by rw [ht, hu, List.length_append, Nat.add_assoc]⟩
  rw [hcs a, hbs a, hu, List.length_append]
  by_cases hlow : a < s.pos.toNat + bs.length
  · rw [if_neg (by omega)]
    refine if_ctx_congr (by omega) (fun h => ?_) fun _ => rfl
    rw [List.getD_append _ _ _ _ (by omega)]
  · rw [if_neg (c := s.pos.toNat ≤ a ∧ a < s.pos.toNat + bs.length) (by omega)]
    refine if_ctx_congr (by omega) (fun h => ?_) fun _ => rfl
    rw [List.getD_append_right _ _ _ _ (by omega), Nat.sub_sub]

/-- What has been appended can be read back (R12). -/
theorem State.Appended.bytesAt_eq {s t : State} {bs : List Byte} (h : s.Appended t bs) :
    t.bytesAt s.pos.toNat (t.pos.toNat - s.pos.toNat) = bs := by
  obtain ⟨hbs, hpos⟩ := h
  rw [hpos, Nat.add_sub_cancel_left]
  refine List.ext_getElem (State.bytesAt_length _ _ _) fun k _ hk => ?_
  rw [← List.getD_eq_getElem _ 0, ← List.getD_eq_getElem _ 0, State.bytesAt_getD, if_pos hk, hbs, if_pos (by omega),
    Nat.add_sub_cancel_left]

/-! ## The pixels a section stands for (R120, R130) -/

/-- The bytes of one section and the pixels they stand for, or no section at all. -/
inductive IsSection (bpp : Nat) : List Byte → List Pixel → Prop
  | none : IsSection bpp [] []
  | raw {ps : List Pixel} (hlo : 1 ≤ ps.length) (hhi : ps.length ≤ 127) (hw : ∀ p ∈ ps, p.length = bpp) :
      IsSection bpp (BitVec.ofNat 8 ps.length :: ps.flatten) ps
  | run {p : Pixel} {n : Nat} (hlo : 2 ≤ n) (hhi : n ≤ 127) (hw : p.length = bpp) :
      IsSection bpp (BitVec.ofNat 8 (128 + n) :: p) (List.replicate n p)

theorem flatten_length_of_width {bpp : Nat} : ∀ {ps : List Pixel}, (∀ p ∈ ps, p.length = bpp) → ps.flatten.length = ps.length * bpp
  | [], _ => (Nat.zero_mul bpp).symm
  | p :: ps, h => by
    obtain ⟨hp, hps⟩ := List.forall_mem_cons.mp h
    rw [List.flatten_cons, List.length_append, hp, flatten_length_of_width hps, List.length_cons, Nat.succ_mul, Nat.add_comm]

theorem chunks_flatten {bpp : Nat} (rest : List Byte) : ∀ {ps : List Pixel}, (∀ p ∈ ps, p.length = bpp) →
    chunks bpp ps.length (ps.flatten ++ rest) = ps
  | [], _ => rfl
  | p :: ps, h => by
    obtain ⟨hp, hps⟩ := List.forall_mem_cons.mp h
    rw [List.length_cons, chunks, List.flatten_cons, List.append_assoc, List.take_left' hp, List.drop_left' hp,
      chunks_flatten rest hps]

/-- The two fields of a raw section's control byte (R120). -/
theorem controlFields_raw {n : Nat} (hn : n ≤ 127) :
    (BitVec.ofNat 8 n).getLsbD 7 = false ∧ (BitVec.ofNat 8 n &&& 0x7F).toNat = n := by
  have hall : ∀ k : Fin 128, (BitVec.ofNat 8 k).getLsbD 7 = false ∧ (BitVec.ofNat 8 k &&& 0x7F).toNat = k := by decide
  exact hall ⟨n, by omega⟩

/-- The two fields of a compressed section's control byte (R120). -/
theorem controlFields_run {n : Nat} (hn : n ≤ 127) :
    (BitVec.ofNat 8 (128 + n)).getLsbD 7 = true ∧ (BitVec.ofNat 8 (128 + n) &&& 0x7F).toNat = n := by
  have hall : ∀ k : Fin 128,
      (BitVec.ofNat 8 (128 + k)).getLsbD 7 = true ∧ (BitVec.ofNat 8 (128 + k) &&& 0x7F).toNat = k := by decide
  exact hall ⟨n, by omega⟩

/-- The bytes expand to the pixels, with any fuel that is enough for their number (R131). -/
def ReadsAs (bpp : Nat) (bs : List Byte) (ps : List Pixel) : Prop :=
  ∀ fuel, bs.length ≤ fuel → expandSections bpp fuel bs = some ps

theorem readsAs_nil (bpp : Nat) : ReadsAs bpp [] [] := fun fuel _ => by cases fuel <;> rfl

/-- A section in front of a section stream puts its pixels in front (R131). -/
theorem IsSection.readsAs {bpp : Nat} {sec bs : List Byte} {pre qs : List Pixel} (h : IsSection bpp sec pre)
    (hbs : ReadsAs bpp bs qs) : ReadsAs bpp (sec ++ bs) (pre ++ qs) := by
  cases h with
  | none => exact hbs
  | raw hlo hhi hw =>
    rintro (_ | fuel) hfuel
    · cases hfuel
    have hlen := flatten_length_of_width hw
    obtain ⟨hmode, hcnt⟩ := controlFields_raw hhi
    simp only [List.cons_append, List.length_cons, List.length_append] at hfuel
    rw [List.cons_append, expandSections, hmode, hcnt, if_neg Bool.false_ne_true,
      if_neg (by rw [List.length_append]; omega), chunks_flatten bs hw, List.drop_left' hlen, hbs fuel (by omega)]
    rfl
  | run hlo hhi hw =>
    rintro (_ | fuel) hfuel
    · cases hfuel
    obtain ⟨hmode, hcnt⟩ := controlFields_run hhi
    simp only [List.cons_append, List.length_cons, List.length_append] at hfuel
    rw [List.cons_append, expandSections, hmode, hcnt, if_pos rfl, if_neg (by rw [List.length_append]; omega),
      List.take_left' hw, List.drop_left' hw, hbs fuel (by omega)]
    rfl

/-- A section costs at most BPP + 1 bytes per pixel, and as much only if it stands for at most one (R132). -/
theorem IsSection.length_le {bpp : Nat} {sec : List Byte} {pre : List Pixel} (h : IsSection bpp sec pre) :
    sec.length ≤ pre.length * (bpp + 1) ∧ (sec.length = pre.length * (bpp + 1) → pre.length ≤ 1) := by
  cases h with
  | none => simp
  | raw hlo hhi hw =>
    rw [List.length_cons, flatten_length_of_width hw, Nat.mul_succ]
    omega
  | @run p n hlo hhi hw =>
    have htwo : 2 * (bpp + 1) ≤ n * (bpp + 1) := Nat.mul_le_mul_right _ hlo
    rw [List.length_cons, List.length_replicate, hw]
    omega

/-! ## The pixels the encoder holds (R135) -/

/-- The pixels that have been pushed and not yet emitted. -/
def State.heldPixels (s : State) : List Pixel :=
  match s.rleMode with
  | .compress => List.replicate s.rleCnt.toNat s.lastPixel
  | .raw => s.rawBuf ++ if s.rlePend then [s.lastPixel] else []

theorem State.heldPixels_compress {s : State} (hm : s.rleMode = .compress) :
    s.heldPixels = List.replicate s.rleCnt.toNat s.lastPixel := by
  rw [State.heldPixels, hm]

theorem State.heldPixels_pending {s : State} (hm : s.rleMode = .raw) (hpend : s.rlePend = true) :
    s.heldPixels = s.rawBuf ++ [s.lastPixel] := by
  rw [State.heldPixels, hm, hpend, if_pos rfl]

theorem State.isIdle.heldPixels_eq {s : State} (h : s.isIdle) : s.heldPixels = [] := by
  obtain ⟨hm, hpend, -, hraw, -⟩ := h
  rw [State.heldPixels, hm, hpend, hraw]
  rfl

/-- The pixels held with a new pixel pending in raw mode. -/
theorem State.heldPixels_setPending {s : State} {p : Pixel} (hm : s.rleMode = .raw) (hp : p.length = bppOf s.rleBpm1) :
    (s.setPending p).heldPixels = s.rawBuf ++ [p] := by
  rw [State.heldPixels_pending (s := s.setPending p) hm rfl, lastPixel_setPending hp]
  rfl

theorem State.RleInv.widths_snoc {s : State} (hs : s.RleInv) : ∀ q ∈ s.rawBuf ++ [s.lastPixel], q.length = bppOf s.rleBpm1 :=
  List.forall_mem_append.mpr ⟨hs.pixel_widths, by simp⟩

/-- What a push emits and what the encoder then holds are what it held, and the pushed pixel (R131). After a raw section of one
pixel a run is held (R132). -/
theorem PushStep.section_held {s e : State} {p : Pixel} {sec : List Byte} (h : PushStep s p sec e) (hs : s.RleInv)
    (hp : p.length = bppOf s.rleBpm1) :
    ∃ pre, IsSection (bppOf s.rleBpm1) sec pre ∧ pre ++ e.heldPixels = s.heldPixels ++ [p] ∧
      (pre.length = 1 → 2 ≤ e.heldPixels.length) := by
  cases h with
  | counts hm hq hc =>
    obtain ⟨-, -, -, hhi, -⟩ := hs.isCompress_of_mode hm
    have hheld : ({ s with rleCnt := s.rleCnt + 1 } : State).heldPixels = List.replicate (s.rleCnt.toNat + 1) s.lastPixel := by
      rw [← rleCnt_succ_toNat hhi]
      exact State.heldPixels_compress hm
    exact ⟨[], .none, by rw [hheld, State.heldPixels_compress hm, hq, List.replicate_succ']; rfl, nofun⟩
  | fillsRun hm hq hc =>
    refine ⟨List.replicate 127 s.lastPixel, .run (by omega) le_rfl (by simp), ?_, by simp⟩
    rw [State.heldPixels_compress hm, hc, hq]
    rfl
  | endsRun hm hq =>
    obtain ⟨-, -, hlo, hhi, -⟩ := hs.isCompress_of_mode hm
    rw [if_neg (by omega)]
    refine ⟨List.replicate s.rleCnt.toNat s.lastPixel, .run hlo (by omega) (by simp), ?_, by simp; omega⟩
    rw [State.heldPixels_compress hm, State.heldPixels_setPending (s := s.rleIdle) rfl hp]
    rfl
  | startsRun hm hpend hq =>
    obtain ⟨-, -, hhi, hlen⟩ := hs.isRaw_of_pending hpend
    refine ⟨s.rawBuf, ?_, ?_, fun _ => le_rfl⟩
    · split
      · rw [List.eq_nil_of_length_eq_zero (by omega : s.rawBuf.length = 0)]
        exact .none
      · rw [← hlen]
        exact .raw (by omega) (by omega) hs.pixel_widths
    · rw [State.heldPixels_pending hm hpend, hq, List.append_assoc]
      rfl
  | pends hm hpend =>
    have hidle := hs.isIdle_of_mode hm hpend
    obtain ⟨-, -, -, hraw, -⟩ := id hidle
    exact ⟨[], .none, by rw [State.heldPixels_setPending hm hp, hidle.heldPixels_eq, hraw]; rfl, nofun⟩
  | commits hm hpend hq hc =>
    refine ⟨[], .none, ?_, nofun⟩
    rw [State.heldPixels_setPending (s := s.commitPending) hm hp, State.heldPixels_pending hm hpend]
    rfl
  | fillsRaw hm hpend hq hc =>
    obtain ⟨-, -, -, hlen⟩ := hs.isRaw_of_pending hpend
    have hfull : (s.rawBuf ++ [s.lastPixel]).length = 127 := by rw [List.length_append, hlen, hc]; rfl
    have hsec : 0x7F#8 = BitVec.ofNat 8 (s.rawBuf ++ [s.lastPixel]).length := by rw [hfull]
    rw [hsec]
    refine ⟨s.rawBuf ++ [s.lastPixel], .raw (by omega) (by omega) hs.widths_snoc, ?_, by omega⟩
    rw [State.heldPixels_setPending (s := { s with rawBuf := [], rleCnt := 0 }) hm hp, State.heldPixels_pending hm hpend]
    rfl

/-- A flush emits the held pixels (R128). -/
theorem State.RleInv.flush_section {s : State} (hs : s.RleInv) : IsSection (bppOf s.rleBpm1) s.flushSection s.heldPixels := by
  obtain h | h | h := hs.three_states
  · obtain ⟨hm, hpend, hcnt, -⟩ := id h
    rw [h.heldPixels_eq, State.flushSection, hm, hpend, hcnt]
    exact .none
  · obtain ⟨hm, hpend, hhi, hlen⟩ := id h
    have hsucc : (s.rawBuf ++ [s.lastPixel]).length = s.rleCnt.toNat + 1 := by rw [List.length_append, hlen]; rfl
    rw [State.heldPixels_pending hm hpend, State.flushSection, hm, hpend, ← hsucc]
    exact .raw (by omega) (by omega) hs.widths_snoc
  · obtain ⟨hm, -, hlo, hhi, -⟩ := id h
    rw [State.heldPixels_compress hm, State.flushSection, hm]
    dsimp only
    rw [if_neg (by omega)]
    exact .run hlo (by omega) (by simp)

end Sys2Proof.Machine
end

section
/-! PROOF. The laws of a pixel stream (R131, R132, R134): a stream that completes emits sections, and each law is an induction
over them. -/

namespace Sys2Proof.Machine

/-! ## Streams (R131) -/

/-- A configured encoder between two commands of a stream. -/
structure State.Streaming (s : State) : Prop where
  rle : s.RleInv
  cursor : s.CursorInv
  configured : s.rleCfg = true
  allocated : s.ca = true
  running : s.fault = false

/-- A configured encoder in Idle meets its invariant (R33). -/
theorem State.isIdle.rleInv {s : State} (h : s.isIdle) (hcfg : s.rleCfg = true) : s.RleInv := by
  obtain ⟨-, hpend, -, hraw, hlast⟩ := id h
  exact
    { three_states := .inl h
      pixel_widths := by simp [hraw]
      last_fits := by rw [hlast]; exact Nat.two_pow_pos _
      adjacent := fun ⟨_, hpend', _⟩ => nomatch hpend.symm.trans hpend'
      unconfigured := fun hcfg' => nomatch hcfg.symm.trans hcfg' }

theorem State.CursorInv.emitted_appended {s : State} (hs : s.CursorInv) (h : Word) {sec : List Byte} (e : State)
    (hfits : s.pos.toNat + sec.length ≤ s.cap.toNat) : s.Appended (s.emitted h sec e) sec := by
  obtain ⟨hwrote, hpos, -⟩ := hs.emitted_effect h e hfits
  exact ⟨hwrote, hpos⟩

/-- A push that completes leaves a configured encoder between two commands. -/
theorem State.Streaming.push {s e : State} {p : Word} {sec : List Byte} (hs : s.Streaming) (h : Word)
    (hstep : PushStep s (pixelOf (bppOf s.rleBpm1) p) sec e) (hfits : s.pos.toNat + sec.length ≤ s.cap.toNat) :
    (s.emitted h sec e).Streaming := by
  have hpixel : rlePixel (pixelOf (bppOf s.rleBpm1) p) s =
      .ok ((s.writeAt sec (s.pos.toNat + sec.length)).withEncoder e) := by
    rw [hstep.rlePixel_eq hs.cursor, map_append, if_neg (Nat.not_lt.mpr hfits)]
  exact
    { rle := (hs.rle.rlePixel hs.configured (pixelOf_length _ _) hpixel).congr rfl
      cursor := (hs.cursor.rlePixel hpixel).congr rfl
      configured := hs.configured
      allocated := hs.allocated
      running := hs.running }

/-- The pixels `ps`, pushed from `s` and followed by a flush, take the block to `t`; `bs` are the sections they emit, in
order. -/
inductive Emits : State → List Word → State → List Byte → Prop
  | flush {s : State} (hs : s.Streaming) (hfits : s.pos.toNat + s.flushSection.length ≤ s.cap.toNat) :
      Emits s [] (s.emitted 0x22000000 s.flushSection s.rleIdle) s.flushSection
  | push {s e t : State} {p : Word} {ps : List Word} {sec bs : List Byte} (hs : s.Streaming)
      (hstep : PushStep s (pixelOf (bppOf s.rleBpm1) p) sec e) (hfits : s.pos.toNat + sec.length ≤ s.cap.toNat)
      (h : Emits (s.emitted 0x21000000 sec e) ps t bs) : Emits s (p :: ps) t (sec ++ bs)

theorem execAll_cons {i : Instr} {is : List Instr} {s t : State} :
    execAll (i :: is) s = some t ↔ ∃ u, exec i s = .next u ∧ u.fault = false ∧ execAll is u = some t := by
  rw [execAll]
  cases exec i s with
  | next u => cases hf : u.fault <;> simp [hf]
  | fault | refused => simp

/-- A stream that the model completes is one that emits sections. -/
theorem exists_emits_of_execAll : ∀ {ps : List Word} {s t : State}, s.Streaming →
    execAll (ps.map Instr.rlePush ++ [.rleFlush]) s = some t → ∃ bs, Emits s ps t bs
  | [], s, t, hs, h => by
    obtain ⟨u, hexec, hf, hu⟩ := execAll_cons.mp h
    obtain rfl : u = t := Option.some.inj hu
    have hfits := fits_of_finishAdv
      ((exec_rleFlush_eq hs.cursor hs.configured hs.allocated hs.rle.three_states).symm.trans hexec) hf
    rw [exec_rleFlush_fits hs.cursor hs.configured hs.allocated hs.rle.three_states hfits] at hexec
    cases hexec
    exact ⟨_, .flush hs hfits⟩
  | p :: ps, s, t, hs, h => by
    obtain ⟨u, hexec, hf, hu⟩ := execAll_cons.mp h
    obtain ⟨e, hstep⟩ := exists_pushStep s (pixelOf (bppOf s.rleBpm1) p)
    have hfits := fits_of_finishAdv ((exec_rlePush_eq hs.cursor hs.configured hs.allocated hstep).symm.trans hexec) hf
    rw [exec_rlePush_fits hs.cursor hs.configured hs.allocated hstep hfits] at hexec
    cases hexec
    obtain ⟨bs, hbs⟩ := exists_emits_of_execAll (hs.push _ hstep hfits) hu
    exact ⟨_, .push hs hstep hfits hbs⟩

theorem Emits.execAll_eq {s t : State} {ps : List Word} {bs : List Byte} (h : Emits s ps t bs) :
    execAll (ps.map Instr.rlePush ++ [.rleFlush]) s = some t := by
  induction h with
  | flush hs hfits =>
    exact execAll_cons.mpr
      ⟨_, exec_rleFlush_fits hs.cursor hs.configured hs.allocated hs.rle.three_states hfits, hs.running, rfl⟩
  | push hs hstep hfits _ ih =>
    exact execAll_cons.mpr ⟨_, exec_rlePush_fits hs.cursor hs.configured hs.allocated hstep hfits, hs.running, ih⟩

/-- The sections of a stream stand in BUF one after the other. -/
theorem Emits.appended {s t : State} {ps : List Word} {bs : List Byte} (h : Emits s ps t bs) : s.Appended t bs := by
  induction h with
  | flush hs hfits => exact hs.cursor.emitted_appended _ _ hfits
  | push hs _ hfits _ ih => exact (hs.cursor.emitted_appended _ _ hfits).trans ih

theorem PushStep.rleBpm1_eq {s e : State} {p : Pixel} {sec : List Byte} (h : PushStep s p sec e) : e.rleBpm1 = s.rleBpm1 := by
  cases h <;> rfl

theorem PushStep.emitted_heldPixels {s e : State} {p : Pixel} {sec : List Byte} (hstep : PushStep s p sec e) (h : Word) :
    (s.emitted h sec e).heldPixels = e.heldPixels := by
  simp only [State.heldPixels, State.lastPixel, hstep.rleBpm1_eq]
  rfl

/-- What a push emits and what the block then holds are what it held, and the pushed pixel. -/
theorem PushStep.emitted_held {s e : State} {p : Word} {sec : List Byte}
    (hstep : PushStep s (pixelOf (bppOf s.rleBpm1) p) sec e) (hs : s.RleInv) (h : Word) :
    ∃ pre, IsSection (bppOf s.rleBpm1) sec pre ∧
      pre ++ (s.emitted h sec e).heldPixels = s.heldPixels ++ [pixelOf (bppOf s.rleBpm1) p] ∧
      (pre.length = 1 → 2 ≤ (s.emitted h sec e).heldPixels.length) := by
  rw [hstep.emitted_heldPixels]
  exact hstep.section_held hs (pixelOf_length _ _)

/-! ## The three laws (R131, R132, R134) -/

/-- The sections of a stream expand to the pixels that were held and the pixels pushed (R131). -/
theorem Emits.readsAs {s t : State} {ps : List Word} {bs : List Byte} (h : Emits s ps t bs) :
    ReadsAs (bppOf s.rleBpm1) bs (s.heldPixels ++ ps.map (pixelOf (bppOf s.rleBpm1))) := by
  induction h with
  | flush hs hfits => simpa using hs.rle.flush_section.readsAs (readsAs_nil _)
  | push hs hstep hfits _ ih =>
    obtain ⟨pre, hsec, hheld, -⟩ := hstep.emitted_held hs.rle 0x21000000
    rw [List.map_cons, List.append_cons, ← hheld, List.append_assoc]
    exact hsec.readsAs ih

/-- A stream costs at most BPP + 1 bytes per pixel, and as much only for at most one pixel (R132). -/
theorem Emits.length_le {s t : State} {ps : List Word} {bs : List Byte} (h : Emits s ps t bs) :
    bs.length ≤ (s.heldPixels.length + ps.length) * (bppOf s.rleBpm1 + 1) ∧
      (bs.length = (s.heldPixels.length + ps.length) * (bppOf s.rleBpm1 + 1) → s.heldPixels.length + ps.length ≤ 1) := by
  induction h with
  | flush hs hfits => exact hs.rle.flush_section.length_le
  | @push s e t p ps sec bs hs hstep hfits _ ih =>
    obtain ⟨pre, hsec, hheld, hrun⟩ := hstep.emitted_held hs.rle 0x21000000
    obtain ⟨hsecLe, hsecEq⟩ := hsec.length_le
    obtain ⟨hle, heq⟩ := ih
    have hcount : s.heldPixels.length + (p :: ps).length =
        pre.length + ((s.emitted 0x21000000 sec e).heldPixels.length + ps.length) := by
      have hlen := congrArg List.length hheld
      simp only [List.length_append, List.length_cons, List.length_nil] at hlen ⊢
      omega
    change bs.length ≤ _ * (bppOf s.rleBpm1 + 1) at hle
    change bs.length = _ * (bppOf s.rleBpm1 + 1) → _ at heq
    rw [hcount, List.length_append, Nat.add_mul]
    omega

/-- A stream with room for BPP + 1 bytes per pixel completes (R132). -/
theorem exists_emits_of_room : ∀ {ps : List Word} {s : State}, s.Streaming →
    s.pos.toNat + (s.heldPixels.length + ps.length) * (bppOf s.rleBpm1 + 1) ≤ s.cap.toNat → ∃ t bs, Emits s ps t bs
  | [], s, hs, hroom => ⟨_, _, .flush hs ((Nat.add_le_add_left hs.rle.flush_section.length_le.1 _).trans hroom)⟩
  | p :: ps, s, hs, hroom => by
    obtain ⟨e, hstep⟩ := exists_pushStep s (pixelOf (bppOf s.rleBpm1) p)
    obtain ⟨pre, hsec, hheld, -⟩ := hstep.emitted_held hs.rle 0x21000000
    obtain ⟨hsecLe, -⟩ := hsec.length_le
    have hcount := congrArg List.length hheld
    simp only [List.length_append, List.length_cons, List.length_nil] at hcount
    rw [List.length_cons, ← Nat.succ_add_eq_add_succ, Nat.succ_eq_add_one, ← hcount, Nat.add_assoc, Nat.add_mul] at hroom
    have hfits : s.pos.toNat + (s.pushSection (pixelOf (bppOf s.rleBpm1) p)).length ≤ s.cap.toNat := by omega
    have hpos := (hs.cursor.emitted_appended 0x21000000 e hfits).2
    obtain ⟨t, bs, h⟩ := exists_emits_of_room (ps := ps) (hs.push 0x21000000 hstep hfits) (by
      rw [hpos]
      show _ + _ * (bppOf s.rleBpm1 + 1) ≤ s.cap.toNat
      omega)
    exact ⟨t, _, .push hs hstep hfits h⟩

/-- A push or flush that completes finds its unit configured and the buffer allocated (R100). -/
theorem configured_of_finishAdv {cfg ca : Bool} {w : Word} {s t : State} {body : Except Trap State}
    (h : finishAdv w s (requireBit cfg w (requireBit ca w body)) = .next t) (ht : t.fault = false) : cfg = true ∧ ca = true := by
  obtain ⟨u, hu, -⟩ | ⟨tr, -, rfl⟩ := finishAdv_next h
  · obtain ⟨hcfg, hu⟩ := requireBit_eq_ok.mp hu
    exact ⟨hcfg, (requireBit_eq_ok.mp hu).1⟩
  · cases ht

theorem configured_of_execAll {ps : List Word} {s t : State}
    (h : execAll (ps.map Instr.rlePush ++ [.rleFlush]) s = some t) : s.rleCfg = true ∧ s.ca = true := by
  cases ps with
  | nil | cons =>
    obtain ⟨u, hexec, hf, -⟩ := execAll_cons.mp h
    exact configured_of_finishAdv hexec hf

/-- A stream from Idle that completes emits sections. -/
theorem State.isIdle.exists_emits {s t : State} {ps : List Word} (h : s.isIdle) (hs : s.CursorInv) (hf : s.fault = false)
    (hexec : execAll (ps.map Instr.rlePush ++ [.rleFlush]) s = some t) : ∃ bs, Emits s ps t bs := by
  obtain ⟨hcfg, hca⟩ := configured_of_execAll hexec
  exact exists_emits_of_execAll ⟨h.rleInv hcfg, hs, hcfg, hca, hf⟩ hexec

/-- Settles O36: nothing is held in Idle, so the sections expand to the pushed pixels. -/
theorem rleRoundTrip : Obligations.RleRoundTrip := by
  unfold Obligations.RleRoundTrip
  intro s t ps hidle hs hf hexec
  obtain ⟨bs, h⟩ := hidle.exists_emits hs hf hexec
  have hreads := h.readsAs
  rw [hidle.heldPixels_eq, List.nil_append] at hreads
  rw [h.appended.bytesAt_eq]
  refine hreads _ ?_
  rw [h.appended.2]
  omega

/-- Settles O37: the stream has room for the most it can emit. -/
theorem rleWorstCase : Obligations.RleWorstCase := by
  unfold Obligations.RleWorstCase
  intro s ps hidle hs hf hcfg hca hroom
  have hnone : s.heldPixels.length + ps.length = ps.length := by rw [hidle.heldPixels_eq, List.length_nil, Nat.zero_add]
  obtain ⟨t, bs, h⟩ := exists_emits_of_room (ps := ps) ⟨hidle.rleInv hcfg, hs, hcfg, hca, hf⟩ (by rwa [hnone])
  obtain ⟨hle, heq⟩ := h.length_le
  have hpos := h.appended.2
  rw [hnone] at hle heq
  refine ⟨t, h.execAll_eq, hpos ▸ Nat.le_add_right _ _, ?_⟩
  rw [hpos, Nat.add_sub_cancel_left]
  exact ⟨hle, heq⟩

/-! ## A run of equal pixels (R134) -/

theorem runBytes_of_lt (p : Pixel) {k : Nat} (hk : k < 127) :
    runBytes p k = if k = 0 then [] else if k = 1 then 0x01#8 :: p else BitVec.ofNat 8 (0x80 + k) :: p := by
  rw [runBytes, Nat.div_eq_of_lt hk, Nat.mod_eq_of_lt hk]
  rfl

theorem runBytes_add (p : Pixel) (n : Nat) : runBytes p (127 + n) = 0xFF#8 :: p ++ runBytes p n := by
  rw [runBytes, Nat.add_div_left n (by decide), Nat.add_mod_left, List.replicate_succ, List.flatten_cons, List.append_assoc]
  rfl

theorem State.RleInv.lastPixel_mem {s : State} (hs : s.RleInv) (h : s.heldPixels ≠ []) : s.lastPixel ∈ s.heldPixels := by
  obtain hidle | ⟨hm, hpend, -⟩ | ⟨hm, -, hlo, -⟩ := hs.three_states
  · exact absurd hidle.heldPixels_eq h
  · rw [State.heldPixels_pending hm hpend]
    exact List.mem_append_right _ (List.mem_singleton_self _)
  · rw [State.heldPixels_compress hm]
    exact List.mem_replicate.mpr ⟨by omega, rfl⟩

theorem State.RleInv.lastPixel_eq_of_uniform {s : State} {p : Pixel} {k : Nat} (hs : s.RleInv)
    (hheld : s.heldPixels = List.replicate k p) (h : s.heldPixels ≠ []) : s.lastPixel = p :=
  List.eq_of_mem_replicate (hheld ▸ hs.lastPixel_mem h)

/-- In compress mode CNT counts the held pixels. -/
theorem rleCnt_eq_of_uniform {s : State} {p : Pixel} {k : Nat} (hm : s.rleMode = .compress)
    (hheld : s.heldPixels = List.replicate k p) : s.rleCnt.toNat = k := by
  have hlen := congrArg List.length hheld
  rwa [State.heldPixels_compress hm, List.length_replicate, List.length_replicate] at hlen

theorem State.isCompress.heldPixels_ne_nil {s : State} (h : s.isCompress) : s.heldPixels ≠ [] := by
  obtain ⟨hm, -, hlo, -⟩ := h
  rw [State.heldPixels_compress hm, Ne, List.replicate_eq_nil_iff]
  omega

theorem State.isRaw.heldPixels_ne_nil {s : State} (h : s.isRaw) : s.heldPixels ≠ [] := by
  obtain ⟨hm, hpend, -⟩ := h
  rw [State.heldPixels_pending hm hpend]
  exact List.append_ne_nil_of_right_ne_nil _ (List.cons_ne_nil _ _)

theorem State.isIdle.zero_of_uniform {s : State} {p : Pixel} {k : Nat} (h : s.isIdle)
    (hheld : s.heldPixels = List.replicate k p) : k = 0 := by
  rw [h.heldPixels_eq] at hheld
  simpa using congrArg List.length hheld.symm

/-- Equal pixels are held in raw mode only while there is one, since adjacent pixels of a raw section differ (R133). -/
theorem State.RleInv.one_of_isRaw {s : State} {p : Pixel} {k : Nat} (hs : s.RleInv) (hraw : s.isRaw)
    (hheld : s.heldPixels = List.replicate k p) : k = 1 ∧ s.rawBuf = [] := by
  have hdiffer := hs.adjacent hraw
  obtain ⟨hm, hpend, -⟩ := hraw
  rw [State.heldPixels_pending hm hpend] at hheld
  have hlen := congrArg List.length hheld
  rw [List.length_append, List.length_replicate, List.length_singleton] at hlen
  have hone : k = 1 := by
    match k with
    | 0 => omega
    | 1 => rfl
    | k + 2 => simp [hheld, List.replicate_succ, adjacentDiffer] at hdiffer
  exact ⟨hone, List.eq_nil_of_length_eq_zero (by omega)⟩

/-- Pushing one more pixel of a run emits nothing, or it is the 127th and the run is emitted (R124, R126, R127). -/
theorem PushStep.uniform {s e : State} {p : Pixel} {sec : List Byte} {k : Nat} (h : PushStep s p sec e) (hs : s.RleInv)
    (hheld : s.heldPixels = List.replicate k p) :
    sec = [] ∨ (k = 126 ∧ sec = 0xFF#8 :: p ∧ e.heldPixels = []) := by
  cases h with
  | counts | pends => exact .inl rfl
  | fillsRun hm hq hc =>
    have hidle : s.rleIdle.isIdle := ⟨rfl, rfl, rfl, rfl, rfl⟩
    exact .inr ⟨rleCnt_eq_of_uniform hm hheld ▸ hc, by rw [hq], hidle.heldPixels_eq⟩
  | endsRun hm hq =>
    exact absurd (hs.lastPixel_eq_of_uniform hheld (hs.isCompress_of_mode hm).heldPixels_ne_nil).symm hq
  | startsRun hm hpend hq =>
    have hraw := hs.isRaw_of_pending hpend
    obtain ⟨-, hnil⟩ := hs.one_of_isRaw hraw hheld
    obtain ⟨-, -, -, hlen⟩ := hraw
    rw [hnil] at hlen
    exact .inl (if_pos hlen.symm)
  | commits hm hpend hq | fillsRaw hm hpend hq =>
    exact absurd (hs.lastPixel_eq_of_uniform hheld (hs.isRaw_of_pending hpend).heldPixels_ne_nil).symm hq

theorem IsSection.pixels_eq_nil {bpp : Nat} {pre : List Pixel} (h : IsSection bpp [] pre) : pre = [] := by
  cases h
  rfl

/-- The trailing section of a run, which has at most 126 pixels left (R128, R134). -/
theorem State.RleInv.flushSection_uniform {s : State} {p : Pixel} {k : Nat} (hs : s.RleInv)
    (hheld : s.heldPixels = List.replicate k p) : s.flushSection = runBytes p k := by
  obtain h | h | h := hs.three_states
  · obtain rfl := h.zero_of_uniform hheld
    obtain ⟨hm, hpend, hcnt, -⟩ := h
    rw [State.flushSection, hm, hpend, hcnt]
    rfl
  · have hlast := hs.lastPixel_eq_of_uniform hheld h.heldPixels_ne_nil
    obtain ⟨rfl, hnil⟩ := hs.one_of_isRaw h hheld
    obtain ⟨hm, hpend, -, hcnt⟩ := h
    rw [hnil] at hcnt
    rw [State.flushSection, hm, hpend, hnil, ← hcnt, hlast, List.nil_append, List.flatten_singleton]
    rfl
  · have hlast := hs.lastPixel_eq_of_uniform hheld h.heldPixels_ne_nil
    obtain ⟨hm, -, hlo, hhi, -⟩ := h
    obtain rfl := rleCnt_eq_of_uniform hm hheld
    rw [runBytes_of_lt p (by omega), if_neg (by omega), if_neg (by omega), State.flushSection, hm, hlast]
    exact if_neg (by omega)

/-- The bytes of a run that goes on with k of its pixels held (R134). -/
theorem Emits.eq_runBytes {s t : State} {ps : List Word} {bs : List Byte} (h : Emits s ps t bs) {p : Pixel} :
    ∀ {k : Nat}, s.heldPixels = List.replicate k p → (∀ x ∈ ps, pixelOf (bppOf s.rleBpm1) x = p) →
      bs = runBytes p (k + ps.length) := by
  induction h with
  | flush hs hfits => exact fun hheld _ => hs.rle.flushSection_uniform hheld
  | @push s e t x ps sec bs hs hstep hfits _ ih =>
    intro k hheld hps
    obtain ⟨hx, hps⟩ := List.forall_mem_cons.mp hps
    obtain ⟨pre, hsec, hmove, -⟩ := hstep.emitted_held hs.rle 0x21000000
    rw [hx] at hstep hmove
    obtain rfl | ⟨rfl, rfl, hnone⟩ := hstep.uniform hs.rle hheld
    · obtain rfl := hsec.pixels_eq_nil
      rw [hheld, ← List.replicate_succ', List.nil_append] at hmove
      rw [ih hmove hps, List.nil_append, List.length_cons, Nat.succ_add_eq_add_succ]
    · have hstart := ih (k := 0) ((hstep.emitted_heldPixels _).trans hnone) hps
      rw [hstart, ← runBytes_add, Nat.zero_add, List.length_cons, ← Nat.succ_add_eq_add_succ]

/-- Settles O38: a run from Idle begins with no pixel held. -/
theorem uniformRunBytes : Obligations.UniformRunBytes := by
  unfold Obligations.UniformRunBytes
  intro s t p n _ hidle hs hf hexec
  rw [← List.map_replicate] at hexec
  obtain ⟨bs, h⟩ := hidle.exists_emits hs hf hexec
  rw [h.appended.bytesAt_eq, h.eq_runBytes (k := 0) hidle.heldPixels_eq fun x hx => by rw [List.eq_of_mem_replicate hx],
    Nat.zero_add, List.length_replicate]

end Sys2Proof.Machine
end

/-! # Proofs of the statements of spec/42_packer.md -/

section
/-! PROOF. The pixel packer: where the rescale steps (R160), what PACK answers, and the numbers that the packers' shifts
place their fields in (R158, R159). -/

namespace Sys2Proof.Machine

/-! ## The rescale (R151, R160) -/

/-- The rescale reaches k where 255*k is at most v*m + 127: the division of R151 rounds to the nearest. -/
theorem le_scale_iff (v : Byte) (m k : Nat) : k ≤ scale v m ↔ 255 * k ≤ v.toNat * m + 127 := by
  rw [scale, Nat.le_div_iff_mul_le (by decide), Nat.mul_comm]

theorem scale_zero (m : Nat) : scale 0 m = 0 := by
  simp [scale]

theorem scale_max (m : Nat) : scale 255 m = m := by
  rw [scale, show (255 : Byte).toNat = 255 from rfl, Nat.mul_add_div (by decide)]
  rfl

theorem scale_mono (m : Nat) {u v : Byte} (h : u.toNat ≤ v.toNat) : scale u m ≤ scale v m :=
  Nat.div_le_div_right (Nat.add_le_add_right (Nat.mul_le_mul_right m h) 127)

/-- A rescaled channel fits its field. -/
theorem scale_le (v : Byte) (m : Nat) : scale v m ≤ m :=
  (scale_mono m (Nat.le_of_lt_succ v.isLt)).trans_eq (scale_max m)

/-- `ceil((255*k - 127) / m)` is the least channel value that rescales to k or more. -/
theorem le_scale_iff_ceil_le {m : Nat} (hm : 0 < m) (v : Byte) (k : Nat) :
    k ≤ scale v m ↔ (255 * k - 127 + (m - 1)) / m ≤ v.toNat := by
  have hceil : (255 * k - 127 + (m - 1)) / m = (255 * k - 127) ⌈/⌉ m := by
    rw [Nat.ceilDiv_eq_add_pred_div, Nat.add_sub_assoc hm]
  rw [le_scale_iff, hceil, ceilDiv_le_iff_le_mul hm, Nat.sub_le_iff_le_add, Nat.mul_comm m]

/-- Settles O27: its clauses hold for every field maximum m above 0. -/
theorem scaleStepsWhereStated : Obligations.ScaleStepsWhereStated := by
  unfold Obligations.ScaleStepsWhereStated
  intro m h
  have hm : 0 < m := by omega
  exact ⟨scale_zero m, scale_max m, fun _ _ => scale_mono m, fun v k _ _ => le_scale_iff_ceil_le hm v k⟩

/-! ## The bytes of a number and the channels of a pixel (R11, R75) -/

theorem append_byte_toNat {n : Nat} (x : BitVec n) (b : Byte) : (x ++ b).toNat = b.toNat + 2 ^ 8 * x.toNat := by
  rw [BitVec.toNat_append, ← Nat.shiftLeft_add_eq_or_of_lt b.isLt, Nat.shiftLeft_eq, Nat.add_comm, Nat.mul_comm]

/-- Four bytes in one word, the first of them lowest (R53). -/
theorem fromLE_four (b0 b1 b2 b3 : Byte) : fromLE [b0, b1, b2, b3] = b3 ++ b2 ++ b1 ++ b0 := by
  apply BitVec.eq_of_toNat_eq
  rw [fromLE_cons_toNat b0 (by simp), fromLE_cons_toNat b1 (by simp), fromLE_cons_toNat b2 (by simp),
    fromLE_cons_toNat b3 (by simp), append_byte_toNat, append_byte_toNat, append_byte_toNat]
  rfl

theorem channels_append (r g b a : Byte) :
    redOf (a ++ b ++ g ++ r) = r ∧ greenOf (a ++ b ++ g ++ r) = g ∧ blueOf (a ++ b ++ g ++ r) = b ∧
      alphaOf (a ++ b ++ g ++ r) = a := by
  have hbytes : leBytes (a ++ b ++ g ++ r) = [r, g, b, a] := by
    rw [← fromLE_four]
    exact pixelOf_fromLE (bpp := 4) rfl (Nat.le_refl 4)
  simpa only [leBytes, List.cons.injEq, and_true, redOf, greenOf, blueOf, alphaOf] using hbytes

/-- The low bytes of a number, by division (R11). -/
theorem leBytes_ofNat (v : Nat) : leBytes (BitVec.ofNat 32 v) =
    [BitVec.ofNat 8 v, BitVec.ofNat 8 (v / 256), BitVec.ofNat 8 (v / 65536), BitVec.ofNat 8 (v / 16777216)] := by
  have hbyte : ∀ k, k + 8 ≤ 32 → (BitVec.ofNat 32 v).extractLsb' k 8 = BitVec.ofNat 8 (v / 2 ^ k) := by
    intro k hk
    apply BitVec.eq_of_getLsbD_eq
    intro i hi
    have hbit : k + i < 32 := by omega
    simp only [BitVec.getLsbD_extractLsb', BitVec.getLsbD_ofNat, Nat.testBit_div_two_pow, hi, hbit, decide_true, Bool.true_and,
      Nat.add_comm]
  simp [leBytes, hbyte]

/-- The word of a number's low n bytes is the number, when it fits them (R11). -/
theorem fromLE_pixelOf_ofNat {n v : Nat} (hn : n ≤ 4) (hv : v < 2 ^ (8 * n)) :
    fromLE (pixelOf n (BitVec.ofNat 32 v)) = BitVec.ofNat 32 v := by
  have hword : v < 2 ^ 32 := hv.trans_le (Nat.pow_le_pow_right (by decide) (by omega))
  apply BitVec.eq_of_toNat_eq
  rw [fromLE_pixelOf_toNat _ hn, BitVec.toNat_ofNat, Nat.mod_eq_of_lt hword, Nat.mod_eq_of_lt hv]

/-! ## PACK (R81, R150) -/

theorem okHeader_packInstr (f : Fmt) (rgba : Word) : okHeader (packInstr f rgba).word = 0x10000000 :=
  okHeader_of_opc (packInstr_opc f rgba) (by decide)

/-- PACK answers the packed pixel in one word and changes nothing else. -/
theorem exec_packInstr (f : Fmt) (rgba : Word) (s : State) :
    exec (packInstr f rgba) s = .next (s.respond [0x10000000, fromLE (pack f rgba)]) := by
  have harm : exec (packInstr f rgba) s = answerPixel (packInstr f rgba).word (pack f rgba) s := by cases f <;> rfl
  rw [harm, answerPixel, okHeader_packInstr]

/-- Settles O24: each pixel is its channels' bytes in order, the first of them lowest in the answer. -/
theorem packReordersChannels : Obligations.PackReordersChannels := by
  unfold Obligations.PackReordersChannels
  intro r g b a s
  obtain ⟨hr, hg, hb, ha⟩ := channels_append r g b a
  refine ⟨(exec_packInstr .a8 _ s).trans ?a8, (exec_packInstr .bgra8888 _ s).trans ?bgra,
    (exec_packInstr .abgr8888 _ s).trans ?abgr⟩
  case a8 => simp [pack, packA8, hr, fromLE, State.respond]
  case bgra => rw [pack, packBgra8888, hr, hg, hb, ha, fromLE_four, State.respond]
  case abgr => rw [pack, packAbgr8888, hr, hg, hb, ha, fromLE_four, State.respond]

/-- PACK answers the number whose low bytes the packed pixel is. -/
theorem exec_packInstr_number {f : Fmt} {rgba : Word} {v : Nat} (s : State)
    (hpack : pack f rgba = pixelOf f.bpp (BitVec.ofNat 32 v)) (hv : v < 2 ^ (8 * f.bpp)) :
    exec (packInstr f rgba) s = .next { s with rsp := s.rsp ++ [0x10000000, BitVec.ofNat 32 v] } := by
  have hbpp : f.bpp ≤ 4 := by cases f <;> decide
  rw [exec_packInstr, hpack, fromLE_pixelOf_ofNat hbpp hv, State.respond]

/-! ## The packers' fields as one number (R158, R159) -/

/-- A field shifted up above the bits of a smaller one: the two are added. -/
theorem shiftLeft_or_eq {lo i : Nat} (hi : Nat) (h : lo < 2 ^ i) : hi <<< i ||| lo = 2 ^ i * hi + lo := by
  rw [← Nat.shiftLeft_add_eq_or_of_lt h, Nat.shiftLeft_eq, Nat.mul_comm]

theorem lowByte_eq {n v : Nat} (h : n % 256 = v % 256) : lowByte n = BitVec.ofNat 8 v :=
  BitVec.eq_of_toNat_eq (by rw [lowByte, BitVec.toNat_ofNat, BitVec.toNat_ofNat, h])

/-- BGR565's two bytes from fields r5, g6 and b5: g6 is split over both. -/
theorem bgr565_fields {r g b v : Nat} (hg : g ≤ 63) (hb : b ≤ 31) (hv : v = 2048 * r + 32 * g + b) :
    [lowByte (g <<< 5 ||| b), lowByte (g >>> 3 ||| r <<< 3)] = [BitVec.ofNat 8 v, BitVec.ofNat 8 (v / 256)] := by
  have hsplit : g >>> 3 = g / 8 := Nat.shiftRight_eq_div_pow g 3
  rw [Nat.or_comm (g >>> 3), hsplit, shiftLeft_or_eq g (by omega), shiftLeft_or_eq r (by omega),
    lowByte_eq (v := v) (by omega), lowByte_eq (v := v / 256) (by omega)]

/-- ABGR6666's three bytes from its four fields: b6 and g6 are split over two bytes each. -/
theorem abgr6666_fields {r g b a v : Nat} (hg : g ≤ 63) (hb : b ≤ 63) (ha : a ≤ 63)
    (hv : v = 262144 * r + 4096 * g + 64 * b + a) :
    [lowByte (b <<< 6 ||| a), lowByte (g <<< 4 ||| b >>> 2), lowByte (r <<< 2 ||| g >>> 4)] =
      [BitVec.ofNat 8 v, BitVec.ofNat 8 (v / 256), BitVec.ofNat 8 (v / 65536)] := by
  have hbsplit : b >>> 2 = b / 4 := Nat.shiftRight_eq_div_pow b 2
  have hgsplit : g >>> 4 = g / 16 := Nat.shiftRight_eq_div_pow g 4
  rw [hbsplit, hgsplit, shiftLeft_or_eq b (by omega), shiftLeft_or_eq g (by omega), shiftLeft_or_eq r (by omega),
    lowByte_eq (v := v) (by omega), lowByte_eq (v := v / 256) (by omega), lowByte_eq (v := v / 65536) (by omega)]

/-- Settles O25: the three fields do not overlap, so R153's shifts add them. -/
theorem packBgr565IsLittleEndian : Obligations.PackBgr565IsLittleEndian := by
  unfold Obligations.PackBgr565IsLittleEndian
  intro r g b a s v hv
  have hr5 := scale_le r 31
  have hg6 := scale_le g 63
  have hb5 := scale_le b 31
  have hnum : v = 2048 * scale r 31 + 32 * scale g 63 + scale b 31 := hv
  obtain ⟨hr, hg, hb, -⟩ := channels_append r g b a
  have hpack : packBgr565 (a ++ b ++ g ++ r) = [BitVec.ofNat 8 v, BitVec.ofNat 8 (v / 256)] := by
    rw [packBgr565, hr, hg, hb]
    exact bgr565_fields hg6 hb5 hnum
  refine ⟨hpack, exec_packInstr_number (f := .bgr565) s ?_ (show v < 65536 by omega)⟩
  rw [pixelOf, leBytes_ofNat]
  exact hpack

/-- Settles O26: the four fields do not overlap, so R155's shifts add them; a source alpha of 0 is the number 0. -/
theorem packAbgr6666IsLittleEndian : Obligations.PackAbgr6666IsLittleEndian := by
  unfold Obligations.PackAbgr6666IsLittleEndian
  intro r g b a s v hv
  have hr6 := scale_le r 63
  have hg6 := scale_le g 63
  have hb6 := scale_le b 63
  have ha6 := scale_le a 63
  have hnum : v = if a = 0 then 0 else 262144 * scale r 63 + 4096 * scale g 63 + 64 * scale b 63 + scale a 63 := hv
  obtain ⟨hr, hg, hb, ha⟩ := channels_append r g b a
  have hpack : packAbgr6666 (a ++ b ++ g ++ r) =
      [BitVec.ofNat 8 v, BitVec.ofNat 8 (v / 256), BitVec.ofNat 8 (v / 65536)] := by
    rw [packAbgr6666, hr, hg, hb, ha]
    split at hnum
    next hzero =>
      rw [if_pos hzero, hnum]
      rfl
    next hpos =>
      rw [if_neg hpos]
      exact abgr6666_fields hg6 hb6 ha6 hnum
  have hfits : v < 16777216 := by
    split at hnum <;> omega
  refine ⟨hpack, exec_packInstr_number (f := .abgr6666) s ?_ hfits⟩
  rw [pixelOf, leBytes_ofNat]
  exact hpack

end Sys2Proof.Machine
end

/-! # Proofs of the statements of spec/43_row.md -/

section
/-! PROOF. What ROW_INIT, ROW_PUSH and ROW_END do. The bodies of ROW_PUSH and ROW_END are those of PIX and EOR too (R191, R192),
so the lemmas about them are for every command word. -/

namespace Sys2Proof.Machine

/-! ## The body of ROW_PUSH (R171) -/

/-- The state after the pixel of operand `p` was written at POS and remembered, answered with header `h`: ADV is BPP. -/
def State.rowPushed (s : State) (h p : Word) : State :=
  { s.writeAt (pixelOf (bppOf s.rowBpm1) p) (s.pos.toNat + bppOf s.rowBpm1) with
    rowLast := fromLE (pixelOf (bppOf s.rowBpm1) p), rowLastv := true }.respond [h, BitVec.ofNat 32 (bppOf s.rowBpm1)]

/-- A remembered pixel is read back whole (R36). -/
@[simp] theorem State.rowPushed_rowLastPixel (s : State) (h p : Word) :
    (s.rowPushed h p).rowLastPixel = pixelOf (bppOf s.rowBpm1) p :=
  pixelOf_fromLE (pixelOf_length _ _) (bppOf_le _)

@[simp] theorem State.rowLastPixel_length (s : State) : s.rowLastPixel.length = bppOf s.rowBpm1 := pixelOf_length _ _

/-- ADV of a move from a word's value on (R81). -/
theorem ofNat_toNat_add_sub (x : Word) (n : Nat) : BitVec.ofNat 32 (x.toNat + n) - x = BitVec.ofNat 32 n := by
  rw [BitVec.ofNat_add, BitVec.ofNat_toNat, BitVec.setWidth_eq, add_sub_cancel_left]

section
variable {w h p : Word} {s : State} (hca : s.ca = true)
include hca

theorem finishAdv_rowPushBody_fits (hw : okHeader w = h) (hfits : s.pos.toNat + bppOf s.rowBpm1 ≤ s.cap.toNat) :
    finishAdv w s (rowPushBody w p s) = .next (s.rowPushed h p) := by
  rw [rowPushBody_eq_ok.mpr ⟨hca, hfits, rfl⟩, finishAdv_ok, hw, State.rowPushed, ← ofNat_toNat_add_sub s.pos]
  rfl

theorem finishAdv_rowPushBody_past (hpast : s.cap.toNat < s.pos.toNat + bppOf s.rowBpm1) :
    finishAdv w s (rowPushBody w p s) =
      .next (s.faultedBy w .cursorBounds (boundsInfo (s.pos.toNat + bppOf s.rowBpm1))) := by
  rw [rowPushBody, hca, requireBit_true, map_append, pixelOf_length, if_pos hpast, finishAdv_error, takeFault_eq_faultedBy,
    saturate_eq_boundsInfo]

end

/-! ## The body of ROW_END (R172) -/

/-- The state after the last pixel was written again and POS went on over the padding, answered with header `h`. -/
def State.rowEnded (s : State) (h : Word) : State :=
  { s.writeAt s.rowLastPixel s.rowStop with rowLastv := false }.respond
    [h, BitVec.ofNat 32 (bppOf s.rowBpm1 + rowPad s.rowBase s.rowDupEnd)]

/-- The padding is the only one of 0 to 3 bytes that aligns (R173). -/
theorem rowPad_unique {base : Word} {stop pad : Nat} (hlt : pad < 4)
    (haligned : ((stop + pad : Nat) - (base.toNat : Int)) % 4 = 0) : pad = rowPad base stop := by
  unfold rowPad
  omega

/-- ROW_END goes on by the duplicate and the padding. -/
theorem State.rowStop_eq (s : State) : s.rowStop = s.pos.toNat + (bppOf s.rowBpm1 + rowPad s.rowBase s.rowDupEnd) :=
  Nat.add_assoc _ _ _

section
variable {w h : Word} {s : State} (hca : s.ca = true)
include hca

theorem finishAdv_rowEndBody_empty (hempty : s.rowLastv = false) :
    finishAdv w s (rowEndBody w s) = .next (s.faultedBy w .rowEmpty s.pos) := by
  rw [rowEndBody, hca, requireBit_true, hempty, require_false, finishAdv_error, takeFault_eq_faultedBy]

variable (hlastv : s.rowLastv = true)
include hlastv

theorem finishAdv_rowEndBody_past (hpast : s.cap.toNat < s.rowStop) :
    finishAdv w s (rowEndBody w s) = .next (s.faultedBy w .cursorBounds (boundsInfo s.rowStop)) := by
  rw [rowEndBody, hca, requireBit_true, hlastv, require_true, if_pos hpast, finishAdv_error, takeFault_eq_faultedBy,
    saturate_eq_boundsInfo]

theorem finishAdv_rowEndBody_fits (hw : okHeader w = h) (hfits : s.rowStop ≤ s.cap.toNat) :
    finishAdv w s (rowEndBody w s) = .next (s.rowEnded h) := by
  rw [rowEndBody_eq_ok.mpr ⟨hca, hlastv, hfits, rfl⟩, finishAdv_ok, hw, State.rowEnded, ← ofNat_toNat_add_sub s.pos,
    ← State.rowStop_eq]
  rfl

end

/-! ## What they do to BUF and the cursor -/

namespace State.CursorInv
variable {s : State} (hs : s.CursorInv) (h : Word)
include hs

theorem rowPushed (p : Word) (hfits : s.pos.toNat + bppOf s.rowBpm1 ≤ s.cap.toNat) : (s.rowPushed h p).CursorInv :=
  (hs.writeAt (by rw [pixelOf_length]) hfits).congr rfl

theorem wrote_rowPushed (p : Word) : s.Wrote (s.rowPushed h p) (pixelOf (bppOf s.rowBpm1) p) :=
  State.wrote_writeAt hs.buf_canonical _ (s.pos.toNat + bppOf s.rowBpm1)

theorem advanced_rowPushed (p : Word) (hfits : s.pos.toNat + bppOf s.rowBpm1 ≤ s.cap.toNat) :
    s.Advanced (s.rowPushed h p) (bppOf s.rowBpm1) :=
  hs.advanced_writeAt _ hfits

theorem rowEnded (hfits : s.rowStop ≤ s.cap.toNat) : (s.rowEnded h).CursorInv :=
  (hs.writeAt (by rw [State.rowLastPixel_length]; exact Nat.le_add_right _ _) hfits).congr rfl

/-- The bytes of the padding are not written (R172). -/
theorem wrote_rowEnded : s.Wrote (s.rowEnded h) s.rowLastPixel := State.wrote_writeAt hs.buf_canonical _ s.rowStop

theorem advanced_rowEnded (hfits : s.rowStop ≤ s.cap.toNat) :
    s.Advanced (s.rowEnded h) (bppOf s.rowBpm1 + rowPad s.rowBase s.rowDupEnd) := by
  rw [State.rowEnded, State.rowStop_eq]
  exact hs.advanced_writeAt _ (s.rowStop_eq ▸ hfits)

end State.CursorInv

/-- R173: after ROW_END, POS is a multiple of 4 from ROW_BASE. -/
theorem State.rowEnded_aligned {s : State} (h : Word) (hfits : s.rowStop ≤ s.cap.toNat) :
    (((s.rowEnded h).pos.toNat : Int) - ((s.rowEnded h).rowBase.toNat : Int)) % 4 = 0 := by
  have hpos : (s.rowEnded h).pos.toNat = s.rowStop := toNat_ofNat_of_le hfits
  rw [hpos]
  exact rowPad_aligns s.rowBase s.rowDupEnd

/-! ## The three commands -/

theorem okHeader_rowInit (b : BitVec 2) (base : Word) : okHeader (Instr.rowInit b base).word = 0x30000000 :=
  okHeader_of_opc (o := .rowInit) rfl (by decide)

theorem okHeader_rowPush (p : Word) : okHeader (Instr.rowPush p).word = 0x31000000 :=
  okHeader_of_opc (o := .rowPush) rfl (by decide)

theorem okHeader_rowEnd : okHeader Instr.rowEnd.word = 0x32000000 := okHeader_of_opc (o := .rowEnd) rfl (by decide)

section
variable {s : State} (hcfg : s.rowCfg = true)
include hcfg

theorem exec_rowPush_configured (p : Word) :
    exec (.rowPush p) s = finishAdv 0x31000000 s (rowPushBody 0x31000000 p s) := by
  show finishAdv _ s (requireBit s.rowCfg _ _) = _
  rw [hcfg, requireBit_true, word_rowPush]
  rfl

theorem exec_rowEnd_configured : exec .rowEnd s = finishAdv 0x32000000 s (rowEndBody 0x32000000 s) := by
  show finishAdv _ s (requireBit s.rowCfg _ _) = _
  rw [hcfg, requireBit_true, word_rowEnd]
  rfl

theorem exec_rowPush_fits (hca : s.ca = true) (p : Word) (hfits : s.pos.toNat + bppOf s.rowBpm1 ≤ s.cap.toNat) :
    exec (.rowPush p) s = .next (s.rowPushed 0x31000000 p) := by
  rw [exec_rowPush_configured hcfg, finishAdv_rowPushBody_fits hca (word_rowPush p ▸ okHeader_rowPush p) hfits]

theorem exec_rowEnd_fits (hca : s.ca = true) (hlastv : s.rowLastv = true) (hfits : s.rowStop ≤ s.cap.toNat) :
    exec .rowEnd s = .next (s.rowEnded 0x32000000) := by
  rw [exec_rowEnd_configured hcfg, finishAdv_rowEndBody_fits hca hlastv (word_rowEnd ▸ okHeader_rowEnd) hfits]

end

/-! ## The statements -/

/-- Settles O39: ROW_INIT has no check to fail. -/
theorem rowInitStartsRow : Obligations.RowInitStartsRow := by
  unfold Obligations.RowInitStartsRow
  intro b base s
  show finish _ s (.ok _) = _
  rw [finish_ok, okHeader_rowInit]
  rfl

/-- Settles O40, on both sides of CAP. -/
theorem rowPushWritesPixel : Obligations.RowPushWritesPixel := by
  unfold Obligations.RowPushWritesPixel
  intro p s hs hcfg hca
  refine ⟨fun hfits => ?fits, fun hpast => ?past⟩
  case fits =>
    exact ⟨_, exec_rowPush_fits hcfg hca p hfits, rfl, hs.wrote_rowPushed _ p, hs.advanced_rowPushed _ p hfits⟩
  case past => rw [exec_rowPush_configured hcfg, finishAdv_rowPushBody_past hca hpast]

/-- Settles O41: the padding is the model's, and ROW_END's two checks come before its write. -/
theorem rowEndDuplicatesAndPads : Obligations.RowEndDuplicatesAndPads := by
  unfold Obligations.RowEndDuplicatesAndPads
  intro s pad hs hcfg hca hlt haligned
  obtain rfl : pad = rowPad s.rowBase s.rowDupEnd := rowPad_unique hlt haligned
  refine ⟨fun hempty => ?empty, fun hlastv hpast => ?past, fun hlastv hfits => ?fits⟩
  case empty => rw [exec_rowEnd_configured hcfg, finishAdv_rowEndBody_empty hca hempty]
  case past =>
    rw [exec_rowEnd_configured hcfg, finishAdv_rowEndBody_past hca hlastv hpast]
    rfl
  case fits =>
    exact ⟨_, exec_rowEnd_fits hcfg hca hlastv hfits, rfl, hs.wrote_rowEnded _, hs.advanced_rowEnded _ hfits,
      State.rowEnded_aligned _ hfits⟩

end Sys2Proof.Machine
end

section
/-! PROOF. Whole rows (R174) and whole payloads (R178): the work of the row unit composed command by command, an induction over
the pixels of a row and one over the rows. -/

namespace Sys2Proof.Machine

/-! ## The work of a configured row unit -/

/-- A row unit between two commands, with the given capacity, base and BPP, none of which ROW_PUSH and ROW_END change. -/
structure RowUnit (cap base : Word) (b : BitVec 2) (s : State) : Prop where
  cursor : s.CursorInv
  running : s.fault = false
  configured : s.rowCfg = true
  allocated : s.ca = true
  cap_eq : s.cap = cap
  base_eq : s.rowBase = base
  bpm1_eq : s.rowBpm1 = b

/-- From `s` to `t` the row unit wrote exactly the bytes `bs` at POS and went on by `n` bytes, those and skipped ones. -/
structure RowWrites (cap base : Word) (b : BitVec 2) (s t : State) (bs : List Byte) (n : Nat) : Prop where
  unit : RowUnit cap base b t
  wrote : s.Wrote t bs
  advanced : s.Advanced t n
  length_le : bs.length ≤ n

theorem State.Advanced.trans {s u t : State} {m n : Nat} (hsu : s.Advanced u m) (hut : u.Advanced t n) :
    s.Advanced t (m + n) := by
  obtain ⟨hupos, huext⟩ := hsu
  obtain ⟨htpos, htext⟩ := hut
  constructor <;> omega

/-- Bytes appended and then bytes written at the new POS are written one after the other, wherever POS goes then. -/
theorem State.Appended.wrote_trans {s u t : State} {bs cs : List Byte} (hsu : s.Appended u bs) (hut : u.Wrote t cs)
    (hlt : u.pos.toNat + cs.length < 2 ^ 32) : s.Wrote t (bs ++ cs) := by
  have hstop : u.Appended { t with pos := BitVec.ofNat 32 (u.pos.toNat + cs.length) } cs :=
    ⟨hut, by rw [BitVec.toNat_ofNat, Nat.mod_eq_of_lt hlt]⟩
  exact (hsu.trans hstop).1

theorem execAll_append {is js : List Instr} {s t : State} :
    execAll (is ++ js) s = some t ↔ ∃ u, execAll is s = some u ∧ execAll js u = some t := by
  induction is generalizing s with
  | nil => simp [execAll]
  | cons i is ih =>
    simp only [List.cons_append, execAll_cons, ih]
    constructor
    · rintro ⟨v, hexec, hf, u, hu, ht⟩
      exact ⟨u, ⟨v, hexec, hf, hu⟩, ht⟩
    · rintro ⟨u, ⟨v, hexec, hf, hu⟩, ht⟩
      exact ⟨v, hexec, hf, u, hu, ht⟩

@[simp] theorem flatMap_pixelOf_length (b : BitVec 2) (ps : List Word) :
    (ps.flatMap (pixelOf (bppOf b))).length = ps.length * bppOf b := by
  induction ps with
  | nil => simp
  | cons p ps ih => rw [List.flatMap_cons, List.length_append, pixelOf_length, ih, List.length_cons, Nat.succ_mul, Nat.add_comm]

section
variable {cap base : Word} {b : BitVec 2} {s u t : State}

/-- Work that skipped nothing, and then more. -/
theorem RowWrites.trans {bs cs : List Byte} {n : Nat} (hsu : RowWrites cap base b s u bs bs.length)
    (hut : RowWrites cap base b u t cs n) : RowWrites cap base b s t (bs ++ cs) (bs.length + n) where
  unit := hut.unit
  wrote := by
    have hpos : t.pos.toNat = u.pos.toNat + n := hut.advanced.1
    have hlen := hut.length_le
    exact State.Appended.wrote_trans ⟨hsu.wrote, hsu.advanced.1⟩ hut.wrote (by omega)
  advanced := hsu.advanced.trans hut.advanced
  length_le := by rw [List.length_append]; exact Nat.add_le_add_left hut.length_le _

theorem RowUnit.writes_nil (hs : RowUnit cap base b s) : RowWrites cap base b s s [] 0 where
  unit := hs
  wrote := fun a => by rw [List.length_nil, if_neg (by omega)]
  advanced := ⟨rfl, (max_eq_left hs.cursor.pos_le_extent).symm⟩
  length_le := Nat.le_refl 0

theorem RowUnit.push (hs : RowUnit cap base b s) (p : Word) (hfits : s.pos.toNat + bppOf b ≤ cap.toNat) :
    exec (.rowPush p) s = .next (s.rowPushed 0x31000000 p) ∧
      RowWrites cap base b s (s.rowPushed 0x31000000 p) (pixelOf (bppOf b) p) (pixelOf (bppOf b) p).length := by
  obtain ⟨hcursor, hf, hcfg, hca, rfl, rfl, rfl⟩ := hs
  refine ⟨exec_rowPush_fits hcfg hca p hfits, ⟨hcursor.rowPushed _ p hfits, hf, hcfg, hca, rfl, rfl, rfl⟩,
    hcursor.wrote_rowPushed _ p, ?_, Nat.le_refl _⟩
  rw [pixelOf_length]
  exact hcursor.advanced_rowPushed _ p hfits

theorem RowUnit.endRow (hs : RowUnit cap base b s) (hlastv : s.rowLastv = true) {pad : Nat}
    (hpad : rowPad base (s.pos.toNat + bppOf b) = pad) (hfits : s.pos.toNat + (bppOf b + pad) ≤ cap.toNat) :
    exec .rowEnd s = .next (s.rowEnded 0x32000000) ∧
      RowWrites cap base b s (s.rowEnded 0x32000000) s.rowLastPixel (bppOf b + pad) := by
  obtain ⟨hcursor, hf, hcfg, hca, rfl, rfl, rfl⟩ := hs
  obtain rfl := hpad
  have hstop : s.rowStop ≤ s.cap.toNat := s.rowStop_eq ▸ hfits
  refine ⟨exec_rowEnd_fits hcfg hca hlastv hstop, ⟨hcursor.rowEnded _ hstop, hf, hcfg, hca, rfl, rfl, rfl⟩,
    hcursor.wrote_rowEnded _, hcursor.advanced_rowEnded _ hstop, ?_⟩
  rw [State.rowLastPixel_length]
  exact Nat.le_add_right _ _

/-! ## Rows (R174) -/

/-- Pixels that fit are written one after the other. -/
theorem RowUnit.exists_pushes : ∀ {ps : List Word} {s : State}, RowUnit cap base b s →
    s.pos.toNat + (ps.flatMap (pixelOf (bppOf b))).length ≤ cap.toNat →
    ∃ u, execAll (ps.map Instr.rowPush) s = some u ∧
      RowWrites cap base b s u (ps.flatMap (pixelOf (bppOf b))) (ps.flatMap (pixelOf (bppOf b))).length
  | [], s, hs, _ => ⟨s, rfl, hs.writes_nil⟩
  | p :: ps, s, hs, hroom => by
    rw [List.flatMap_cons, List.length_append] at hroom ⊢
    have hlen : (pixelOf (bppOf b) p).length = bppOf b := pixelOf_length b p
    obtain ⟨hexec, hpush⟩ := hs.push p (by omega)
    have hpos := hpush.advanced.1
    obtain ⟨u, hrest, hpushes⟩ := RowUnit.exists_pushes (ps := ps) hpush.unit (by omega)
    exact ⟨u, execAll_cons.mpr ⟨_, hexec, hpush.unit.running, hrest⟩, hpush.trans hpushes⟩

/-- From an aligned start, `n` bytes and the padding after them are `n` rounded up to a multiple of 4 (R174). -/
theorem add_rowPad_of_aligned {start : Nat} (haligned : ((start : Int) - (base.toNat : Int)) % 4 = 0) (n : Nat) :
    n + rowPad base (start + n) = Driver.roundup4 n := by
  unfold rowPad Driver.roundup4
  omega

/-- The end of a row from its last pixel on: the pixel twice, then the padding. -/
theorem RowUnit.exists_rowTail (hs : RowUnit cap base b s) (last : Word) {pad : Nat}
    (hpad : rowPad base (s.pos.toNat + 2 * bppOf b) = pad) (hfits : s.pos.toNat + (2 * bppOf b + pad) ≤ cap.toNat) :
    ∃ t, execAll [.rowPush last, .rowEnd] s = some t ∧
      RowWrites cap base b s t (pixelOf (bppOf b) last ++ pixelOf (bppOf b) last) (2 * bppOf b + pad) := by
  have hlen : (pixelOf (bppOf b) last).length = bppOf b := pixelOf_length b last
  obtain ⟨hexecLast, hu⟩ := hs.push last (by omega)
  have hupos := hu.advanced.1
  have hdupEnd : (s.rowPushed 0x31000000 last).pos.toNat + bppOf b = s.pos.toNat + 2 * bppOf b := by omega
  obtain ⟨hexecEnd, ht⟩ := hu.unit.endRow rfl ((congrArg (rowPad base) hdupEnd).trans hpad) (by omega)
  rw [State.rowPushed_rowLastPixel, hs.bpm1_eq] at ht
  refine ⟨(s.rowPushed 0x31000000 last).rowEnded 0x32000000,
    execAll_cons.mpr ⟨_, hexecLast, hu.unit.running, execAll_cons.mpr ⟨_, hexecEnd, ht.unit.running, rfl⟩⟩, ?_⟩
  have htail := hu.trans ht
  rwa [hlen, ← Nat.add_assoc, ← Nat.two_mul] at htail

/-- A row from an aligned start takes `rowBytes` bytes (R174). -/
theorem RowUnit.exists_row (hs : RowUnit cap base b s) (ps : List Word) (last : Word)
    (haligned : ((s.pos.toNat : Int) - (base.toNat : Int)) % 4 = 0)
    (hroom : s.pos.toNat + Driver.rowBytes (ps.length + 1) (bppOf b) ≤ cap.toNat) :
    ∃ t, execAll ((ps ++ [last]).map Instr.rowPush ++ [.rowEnd]) s = some t ∧
      RowWrites cap base b s t ((ps ++ [last, last]).flatMap (pixelOf (bppOf b)))
        (Driver.rowBytes (ps.length + 1) (bppOf b)) := by
  have hlen : (ps.flatMap (pixelOf (bppOf b))).length + 2 * bppOf b = (ps.length + 1 + 1) * bppOf b := by
    rw [flatMap_pixelOf_length, ← Nat.add_mul]
  have hbytes := add_rowPad_of_aligned haligned ((ps.length + 1 + 1) * bppOf b)
  change _ = Driver.rowBytes (ps.length + 1) (bppOf b) at hbytes
  rw [← hlen, Nat.add_assoc, ← Nat.add_assoc s.pos.toNat] at hbytes
  rw [← hbytes] at hroom ⊢
  obtain ⟨u, hexecPs, hu⟩ := hs.exists_pushes (ps := ps) (by omega)
  have hupos := hu.advanced.1
  obtain ⟨t, hexecTail, ht⟩ := hu.unit.exists_rowTail last (by rw [hupos]) (by omega)
  refine ⟨t, ?runs, ?writes⟩
  case runs =>
    rw [List.map_append, List.append_assoc]
    exact execAll_append.mpr ⟨u, hexecPs, hexecTail⟩
  case writes =>
    rw [List.flatMap_append]
    simpa using hu.trans ht

/-- A row leaves POS aligned (R173). -/
theorem rowBytes_aligned {start stop : Nat} {w bpp : Nat} (haligned : ((start : Int) - (base.toNat : Int)) % 4 = 0)
    (hstop : stop = start + Driver.rowBytes w bpp) : ((stop : Int) - (base.toNat : Int)) % 4 = 0 := by
  rw [Driver.rowBytes, Driver.roundup4] at hstop
  omega

/-- Settles O42: the row is one piece of the row unit's work; the padding is what rounding up adds. -/
theorem rowLayout : Obligations.RowLayout := by
  unfold Obligations.RowLayout
  refine ⟨fun s ps last hs hf hcfg hca haligned hroom => ?layout, fun w _ => ?padding⟩
  case layout =>
    obtain ⟨t, hexec, ht⟩ := RowUnit.exists_row ⟨hs, hf, hcfg, hca, rfl, rfl, rfl⟩ ps last haligned hroom
    exact ⟨t, hexec, ht.advanced, ht.wrote⟩
  case padding =>
    unfold Driver.rowBytes Driver.roundup4
    refine ⟨by omega, ?_, by omega, by omega⟩
    split <;> omega

/-! ## Payloads (R178) -/

/-- Rows of `w` pixels, one after the other, take `rowBytes` bytes each. -/
theorem RowUnit.exists_rows {w : Nat} (hw : 1 ≤ w) : ∀ {rows : List (List Word)} {s : State}, RowUnit cap base b s →
    ((s.pos.toNat : Int) - (base.toNat : Int)) % 4 = 0 → (∀ r ∈ rows, r.length = w) →
    s.pos.toNat + rows.length * Driver.rowBytes w (bppOf b) ≤ cap.toNat →
    ∃ t, execAll (rows.flatMap fun r => r.map Instr.rowPush ++ [.rowEnd]) s = some t ∧
      t.pos.toNat = s.pos.toNat + rows.length * Driver.rowBytes w (bppOf b)
  | [], s, _, _, _, _ => ⟨s, rfl, by simp⟩
  | r :: rows, s, hs, haligned, hwidth, hroom => by
    obtain ⟨hr, hrows⟩ := List.forall_mem_cons.mp hwidth
    obtain rfl | ⟨ps, last, rfl⟩ := List.eq_nil_or_concat' r
    case inl => exact absurd hr (Nat.ne_of_lt hw)
    case inr =>
      rw [List.length_append, List.length_singleton] at hr
      rw [List.length_cons, Nat.succ_mul] at hroom ⊢
      obtain ⟨u, hexec, hrow⟩ := hs.exists_row ps last haligned (by rw [hr]; omega)
      rw [hr] at hrow
      have hupos := hrow.advanced.1
      obtain ⟨t, hrest, htpos⟩ :=
        RowUnit.exists_rows hw hrow.unit (rowBytes_aligned haligned hupos) hrows (by omega)
      exact ⟨t, execAll_append.mpr ⟨u, hexec, hrest⟩, by omega⟩

end

/-- "`rowBytes(w, bpp) <= (w + 1)*bpp + 3`" (R178). -/
theorem rowBytes_le (w bpp : Nat) : Driver.rowBytes w bpp ≤ (w + 1) * bpp + 3 := by
  unfold Driver.rowBytes Driver.roundup4
  omega

/-- Settles O43: the payload starts aligned, at ROW_BASE itself, and each of its rows keeps within its share of the bound. -/
theorem uncompressedPayloadLength : Obligations.UncompressedPayloadLength := by
  unfold Obligations.UncompressedPayloadLength
  intro s rows final w hs hf hcfg hca hbase hw hwidth hroom
  have hlen : (rows ++ [final, final]).length = rows.length + 2 := List.length_append
  refine ⟨?length, ?bound⟩
  case length =>
    rw [← hlen] at hroom ⊢
    exact RowUnit.exists_rows hw ⟨hs, hf, hcfg, hca, rfl, rfl, rfl⟩ (by rw [hbase, sub_self]; rfl)
      (fun r hr => hwidth r (by simpa using hr)) hroom
  case bound =>
    calc (rows.length + 2) * Driver.rowBytes w (bppOf s.rowBpm1)
        ≤ (rows.length + 2) * ((w + 1) * bppOf s.rowBpm1 + 3) := Nat.mul_le_mul_left _ (rowBytes_le _ _)
      _ = Driver.nonRleBound w (rows.length + 1) (bppOf s.rowBpm1) := by unfold Driver.nonRleBound; ring

end Sys2Proof.Machine
end

/-! # Proofs of the statements of spec/44_datapath.md -/

section
/-! PROOF. The front end: CFG, NOP and RD answer at once, and PIX, EOR and EOI are the units' bodies under other command words
(R191 to R193), so that what the units do says what they do. -/

namespace Sys2Proof.Machine

/-! ## Headers -/

theorem okHeader_nop : okHeader Instr.nop.word = 0x00000000 := okHeader_of_opc (o := .nop) rfl (by decide)

theorem okHeader_cfg (f : Fmt) (rle : Bool) (base : Word) : okHeader (Instr.cfg f rle base).word = 0x40000000 :=
  okHeader_of_opc (o := .cfg) rfl (by decide)

theorem okHeader_pix (rgba : Word) : okHeader (Instr.pix rgba).word = 0x41000000 :=
  okHeader_of_opc (o := .pix) rfl (by decide)

theorem okHeader_eor : okHeader Instr.eor.word = 0x42000000 := okHeader_of_opc (o := .eor) rfl (by decide)

theorem okHeader_eoi : okHeader Instr.eoi.word = 0x43000000 := okHeader_of_opc (o := .eoi) rfl (by decide)

theorem okHeader_rd (r : Reg) : okHeader (Instr.rd r).word = 0x50000000 := okHeader_of_opc (o := .rd) rfl (by decide)

/-! ## CFG, NOP and RD (R190, R196, R197) -/

/-- Settles O44: CFG has no check to fail. -/
theorem cfgConfiguresBothUnits : Obligations.CfgConfiguresBothUnits := by
  unfold Obligations.CfgConfiguresBothUnits
  intro f rle base s
  show finish _ s (.ok _) = _
  rw [finish_ok, okHeader_cfg]
  rfl

theorem exec_nop (s : State) : exec .nop s = .next (s.respond [0x00000000]) := by
  show finish _ s (.ok s) = _
  rw [finish_ok, okHeader_nop]

theorem exec_rd (r : Reg) (s : State) : exec (.rd r) s = .next (s.respond [0x50000000, s.readReg r]) := by
  rw [← okHeader_rd r]
  rfl

/-- Settles O48: the two commands are their answers. -/
theorem nopAndRdOnlyAnswer : Obligations.NopAndRdOnlyAnswer := by
  unfold Obligations.NopAndRdOnlyAnswer
  exact fun r s => ⟨exec_nop s, exec_rd r s⟩

/-! ## The widths of the packer and the units (R194) -/

/-- The packer's pixels are as wide as their format says (R7, R150). -/
theorem pack_length (f : Fmt) (rgba : Word) : (pack f rgba).length = f.bpp := by
  cases f with
  | abgr6666 =>
    show (packAbgr6666 rgba).length = 3
    unfold packAbgr6666
    split <;> rfl
  | a8 | bgr565 | bgra8888 | abgr8888 => rfl

/-- A unit that has the format's BPP reads from an operand the pixel that the packer put there. -/
theorem pixelOf_pack {b : BitVec 2} {f : Fmt} (hb : bppOf b = f.bpp) (rgba : Word) :
    pixelOf (bppOf b) (fromLE (pack f rgba)) = pack f rgba :=
  pixelOf_fromLE ((pack_length f rgba).trans hb.symm) (bppOf_le b)

section
variable {s : State} (hf : s.FrontInv) (henc : s.encCfg = true)
include hf henc

theorem State.FrontInv.rleBpp_eq : bppOf s.rleBpm1 = s.encFmt.bpp := by
  obtain ⟨-, -, hrle, -⟩ := hf henc
  rw [hrle, bppOf_bpm1Of]

theorem State.FrontInv.rowBpp_eq : bppOf s.rowBpm1 = s.encFmt.bpp := by
  obtain ⟨-, -, -, hrow⟩ := hf henc
  rw [hrow, bppOf_bpm1Of]

end

/-! ## PIX, EOR and EOI as bodies of the units (R191 to R193) -/

section
variable {s : State} (henc : s.encCfg = true) (hca : s.ca = true)
include henc hca

/-- Both checks of a front-end command pass, and its body runs. -/
theorem front_checks_pass (w : Word) (body : Except Trap State) : requireBit s.encCfg w (requireBit s.ca w body) = body := by
  rw [henc, requireBit_true, hca, requireBit_true]

theorem exec_pix_rle (hrle : s.encRle = true) (rgba : Word) :
    exec (.pix rgba) s =
      finishAdv (Instr.pix rgba).word s (rlePixel (pixelOf (bppOf s.rleBpm1) (fromLE (pack s.encFmt rgba))) s) := by
  show finishAdv _ s (requireBit s.encCfg _ (requireBit s.ca _ (emitPixel _ _ s))) = _
  rw [front_checks_pass henc hca, emitPixel, if_pos hrle, rlePushBody, hca, requireBit_true]

theorem exec_pix_raw (hraw : s.encRle = false) (rgba : Word) :
    exec (.pix rgba) s =
      finishAdv (Instr.pix rgba).word s (rowPushBody (Instr.pix rgba).word (fromLE (pack s.encFmt rgba)) s) := by
  show finishAdv _ s (requireBit s.encCfg _ (requireBit s.ca _ (emitPixel _ _ s))) = _
  rw [front_checks_pass henc hca, emitPixel, if_neg (by simp [hraw])]

theorem exec_eor_rle (hrle : s.encRle = true) : exec .eor s = .next (s.respond [0x42000000, 0]) := by
  show finishAdv _ s (requireBit s.encCfg _ (requireBit s.ca _ (if s.encRle then .ok s else _))) = _
  rw [front_checks_pass henc hca, if_pos hrle, finishAdv_ok, okHeader_eor, sub_self]

theorem exec_eor_raw (hraw : s.encRle = false) :
    exec .eor s = finishAdv Instr.eor.word s (rowEndBody Instr.eor.word s) := by
  show finishAdv _ s (requireBit s.encCfg _ (requireBit s.ca _ (if s.encRle then _ else _))) = _
  rw [front_checks_pass henc hca, if_neg (by simp [hraw])]

theorem exec_eoi_rle (hrle : s.encRle = true) : exec .eoi s = finishAdv Instr.eoi.word s (rleFinish s) := by
  show finishAdv _ s (requireBit s.encCfg _ (requireBit s.ca _ (if s.encRle then _ else _))) = _
  rw [front_checks_pass henc hca, if_pos hrle, rleFlushBody, hca, requireBit_true]

theorem exec_eoi_raw (hraw : s.encRle = false) : exec .eoi s = .next (s.respond [0x43000000, 0]) := by
  show finishAdv _ s (requireBit s.encCfg _ (requireBit s.ca _ (if s.encRle then _ else .ok s))) = _
  rw [front_checks_pass henc hca, if_neg (by simp [hraw]), finishAdv_ok, okHeader_eoi, sub_self]

end

/-! ## The same body under two command words (R195) -/

/-- Once the cursor is allocated, the command word does not show in the row unit's bodies: only `RequireCA` traps with it. -/
theorem rowPushBody_word {s : State} (hca : s.ca = true) (v w p : Word) : rowPushBody v p s = rowPushBody w p s := by
  rw [rowPushBody, rowPushBody, hca, requireBit_true, requireBit_true]

theorem rowEndBody_word {s : State} (hca : s.ca = true) (v w : Word) : rowEndBody v s = rowEndBody w s := by
  rw [rowEndBody, rowEndBody, hca, requireBit_true, requireBit_true]

/-- A body answers under every command word with the same state and the same words after the header; the header's KIND says
whether it completed (R81). -/
theorem exists_finishAdv_answer {s : State} {body : Except Trap State} (hbody : KeepsRsp s body) :
    ∃ (t : State) (k : Word) (r : List Word), (k = 0 ∨ k = 0x00010000) ∧
      ∀ w, finishAdv w s body = .next { t with rsp := s.rsp ++ (okHeader w ||| k) :: r } := by
  cases body with
  | ok u =>
    refine ⟨u, 0, [u.pos - s.pos], .inl rfl, fun w => ?_⟩
    rw [finishAdv_ok, State.respond, hbody u rfl, show okHeader w ||| 0 = okHeader w from BitVec.or_zero]
  | error tr => exact ⟨s.takeFault 0 tr, 0x00010000, [tr.cause.code.setWidth 32, tr.info], .inr rfl, fun _ => rfl⟩

/-- Two commands with one body differ in the header of their answer only (R195). -/
theorem exec_alike {i j : Instr} {g h : Word} {s : State} {body : Except Trap State} (hbody : KeepsRsp s body)
    (hg : okHeader i.word = g) (hh : okHeader j.word = h) (hi : exec i s = finishAdv i.word s body)
    (hj : exec j s = finishAdv j.word s body) :
    ∃ (t : State) (k : Word) (r : List Word), (k = 0 ∨ k = 0x00010000) ∧
      exec i s = .next { t with rsp := s.rsp ++ (g ||| k) :: r } ∧
      exec j s = .next { t with rsp := s.rsp ++ (h ||| k) :: r } := by
  obtain ⟨t, k, r, hk, hanswer⟩ := exists_finishAdv_answer hbody
  exact ⟨t, k, r, hk, by rw [hi, hanswer, hg], by rw [hj, hanswer, hh]⟩

section
variable {s : State} (hca : s.ca = true)
include hca

/-- RLE_PUSH on a configured encoder is its body (R123). -/
theorem exec_rlePush_body (hcfg : s.rleCfg = true) (p : Word) :
    exec (.rlePush p) s = finishAdv (Instr.rlePush p).word s (rlePixel (pixelOf (bppOf s.rleBpm1) p) s) := by
  show finishAdv _ s (requireBit s.rleCfg _ (requireBit s.ca _ _)) = _
  rw [hcfg, requireBit_true, hca, requireBit_true]

/-- RLE_FLUSH on a configured encoder is its body (R128). -/
theorem exec_rleFlush_body (hcfg : s.rleCfg = true) : exec .rleFlush s = finishAdv Instr.rleFlush.word s (rleFinish s) := by
  show finishAdv _ s (requireBit s.rleCfg _ (requireBit s.ca _ _)) = _
  rw [hcfg, requireBit_true, hca, requireBit_true]

/-- ROW_PUSH on a configured row unit is its body, under whatever command word (R171). -/
theorem exec_rowPush_body (hcfg : s.rowCfg = true) (w p : Word) :
    exec (.rowPush p) s = finishAdv (Instr.rowPush p).word s (rowPushBody w p s) := by
  show finishAdv _ s (requireBit s.rowCfg _ _) = _
  rw [hcfg, requireBit_true, rowPushBody_word hca _ w]

/-- ROW_END on a configured row unit is its body, under whatever command word (R172). -/
theorem exec_rowEnd_body (hcfg : s.rowCfg = true) (w : Word) :
    exec .rowEnd s = finishAdv Instr.rowEnd.word s (rowEndBody w s) := by
  show finishAdv _ s (requireBit s.rowCfg _ _) = _
  rw [hcfg, requireBit_true, rowEndBody_word hca _ w]

end

/-- Settles O46: each pair of commands is one body under two command words, and where there is no body there is nothing to do. -/
theorem frontEndIsTheUnits : Obligations.FrontEndIsTheUnits := by
  unfold Obligations.FrontEndIsTheUnits
  intro rgba s hf henc hca
  obtain ⟨hrleCfg, hrowCfg, -, -⟩ := hf henc
  refine ⟨?pix, fun hraw => ?eorRaw, fun hrle => ⟨exec_eor_rle henc hca hrle, exec_nop s⟩, fun hrle => ?eoiRle,
    fun hraw => ⟨exec_eoi_raw henc hca hraw, exec_nop s⟩⟩
  case pix =>
    cases hmode : s.encRle with
    | true =>
      exact exec_alike (fun u hu => by rw [rlePixel_frame hu]; rfl) (okHeader_pix rgba) (okHeader_rlePush _)
        (exec_pix_rle henc hca hmode rgba) (exec_rlePush_body hca hrleCfg _)
    | false =>
      exact exec_alike (keepsRsp_rowPushBody _ _ s) (okHeader_pix rgba) (okHeader_rowPush _)
        (exec_pix_raw henc hca hmode rgba) (exec_rowPush_body hca hrowCfg _ _)
  case eorRaw =>
    exact exec_alike (keepsRsp_rowEndBody _ s) okHeader_eor okHeader_rowEnd (exec_eor_raw henc hca hraw)
      (exec_rowEnd_body hca hrowCfg _)
  case eoiRle =>
    exact exec_alike (fun u hu => by rw [rleFinish_frame hu]; rfl) okHeader_eoi okHeader_rleFlush
      (exec_eoi_rle henc hca hrle) (exec_rleFlush_body hca hrleCfg)

/-! ## PIX, EOR and EOI that complete (R191 to R193) -/

/-- Settles O45: the branch of the pushed pixel says what the encoder emits; without RLE the pixel is the row unit's. -/
theorem pixFeedsTheEmitter : Obligations.PixFeedsTheEmitter := by
  unfold Obligations.PixFeedsTheEmitter
  intro rgba s hs henc hca
  have hrleBpp := hs.front.rleBpp_eq henc
  have hrowBpp := hs.front.rowBpp_eq henc
  refine ⟨fun hrle hfits => ?rle, fun hraw hfits => ?raw⟩
  case rle =>
    obtain ⟨e, hstep⟩ := exists_pushStep s (pack s.encFmt rgba)
    refine ⟨s.emitted 0x41000000 (s.pushSection (pack s.encFmt rgba)) e, ?_, rfl, hs.cursor.emitted_effect _ e hfits⟩
    rw [exec_pix_rle henc hca hrle, pixelOf_pack hrleBpp, hstep.rlePixel_eq hs.cursor,
      finishAdv_emits e (okHeader_pix rgba) hfits]
  case raw =>
    rw [← hrowBpp] at hfits ⊢
    have hexec := exec_pix_raw henc hca hraw rgba
    rw [finishAdv_rowPushBody_fits hca (okHeader_pix rgba) hfits] at hexec
    have hwrote := hs.cursor.wrote_rowPushed 0x41000000 (fromLE (pack s.encFmt rgba))
    rw [pixelOf_pack hrowBpp] at hwrote
    refine ⟨_, hexec, ?_, hwrote, hs.cursor.advanced_rowPushed _ _ hfits⟩
    rw [State.rowPushed, pixelOf_pack hrowBpp]
    rfl

/-- Settles O47: the trailing section is the encoder's, the padding the row unit's. -/
theorem eorAndEoiComplete : Obligations.EorAndEoiComplete := by
  unfold Obligations.EorAndEoiComplete
  intro s pad hs henc hca hlt haligned
  rw [← hs.front.rowBpp_eq henc] at haligned ⊢
  obtain rfl : pad = rowPad s.rowBase s.rowDupEnd := rowPad_unique hlt haligned
  refine ⟨exec_eor_rle henc hca, fun hraw hlastv hfits => ?eorRaw, exec_eoi_raw henc hca, fun hrle hfits => ?eoiRle⟩
  case eorRaw =>
    have hexec := exec_eor_raw henc hca hraw
    rw [finishAdv_rowEndBody_fits hca hlastv okHeader_eor hfits] at hexec
    exact ⟨_, hexec, rfl, hs.cursor.wrote_rowEnded _, hs.cursor.advanced_rowEnded _ hfits⟩
  case eoiRle =>
    refine ⟨s.emitted 0x43000000 s.flushSection s.rleIdle, ?_, rfl, hs.cursor.emitted_effect _ _ hfits⟩
    rw [exec_eoi_rle henc hca hrle, rleFinish_eq hs.cursor hs.rle.three_states,
      finishAdv_emits s.rleIdle okHeader_eoi hfits]

end Sys2Proof.Machine
end

/-! # Proofs of the statements of spec/45_host.md -/

section
/-! PROOF. The header: its ten words, and that CUR_WRITE carries their 40 bytes (R221 to R224). -/

namespace Sys2Proof.Machine

/-- A word is the one that its four bytes make up (R11, R53). -/
theorem fromLE_leBytes (w : Word) : fromLE (leBytes w) = w := by
  apply BitVec.eq_of_toNat_eq
  have hbytes : leBytes w = pixelOf 4 w := rfl
  rw [hbytes, fromLE_pixelOf_toNat w le_rfl, Nat.mod_eq_of_lt w.isLt]

/-- Packing the bytes of words gives the words back (R53, R74). -/
theorem wordsOf_flatMap_leBytes : ∀ ws : List Word, wordsOf (ws.flatMap leBytes) = ws
  | [] => rfl
  | w :: ws => congrArg₂ List.cons (fromLE_leBytes w) (wordsOf_flatMap_leBytes ws)

end Sys2Proof.Machine

namespace Sys2Proof.Driver

open Sys2Proof.Machine

/-- CUR_WRITE of words carries their bytes, four for each (R74, R83). -/
theorem curWriteW32_eq (vs : List Word) : curWriteW32 vs = .curWrite (BitVec.ofNat 32 (4 * vs.length)) vs := by
  rw [curWriteW32, curWriteBytes, flatMap_leBytes_length, wordsOf_flatMap_leBytes]

/-- "RLE used" is bit 28 of the format code, which TexCode leaves clear (R222). -/
theorem formatCode_eq (fmt : Fmt) (rle : Bool) :
    formatCode fmt rle = if rle then Config.texCode fmt ||| 0x10000000 else Config.texCode fmt := by
  cases rle with
  | false => exact BitVec.or_zero
  | true => rfl

theorem formatCode_bit28 (fmt : Fmt) (rle : Bool) : (formatCode fmt rle).getLsbD 28 = rle := by
  have hclear : (Config.texCode fmt).getLsbD 28 = false := by simp [Config.texCode]
  rw [formatCode, BitVec.getLsbD_or, hclear, Bool.false_or]
  cases rle <;> rfl

/-- Settles O57: the words one by one, with the format code by what R222 says of TexCode. -/
theorem headerWordsAgree : Obligations.HeaderWordsAgree := by
  unfold Obligations.HeaderWordsAgree
  rintro img fmt rle t _ rfl
  rw [← formatCode_eq]
  exact ⟨rfl, rfl, rfl, rfl, formatCode_bit28 fmt rle, rfl, curWriteW32_eq _⟩

end Sys2Proof.Driver
end

section
/-! PROOF. Noninterference of the past (R229): two blocks that differ only in what an encode neither sets nor reads answer every
command but RD with the same words, and still differ in no more afterwards. -/

namespace Sys2Proof.Machine

/-! ## Blocks that differ in their past only -/

/-- `s` with the past of `c`: CAUSE, FINFO, ROW_LAST, the undelivered responses and the port events. -/
def State.withPast (s c : State) : State :=
  { s with cause := c.cause, finfo := c.finfo, rowLast := c.rowLast, rsp := c.rsp, input := c.input }

/-- The two blocks differ in their past only; ROW_LAST belongs to it while no pixel of a row has come (R35). -/
inductive State.Twin (s : State) : State → Prop
  | intro (c : State) (h : s.rowLastv = true → c.rowLast = s.rowLast) : s.Twin (s.withPast c)

theorem State.Twin.of_eq {s t : State} (h : t = s.withPast t) (hlast : s.rowLastv = true → t.rowLast = s.rowLast) :
    s.Twin t :=
  h ▸ .intro t hlast

theorem State.Twin.refl (s : State) : s.Twin s := .intro s fun _ => rfl

theorem State.Twin.trans {s t u : State} (hst : s.Twin t) (htu : t.Twin u) : s.Twin u := by
  obtain ⟨c, hc⟩ := hst
  obtain ⟨d, hd⟩ := htu
  exact .intro d fun hlastv => (hd hlastv).trans (hc hlastv)

theorem State.Twin.respond {s t : State} (h : s.Twin t) (vs ws : List Word) : (s.respond vs).Twin (t.respond ws) := by
  obtain ⟨c, hc⟩ := h
  exact .of_eq rfl hc

theorem State.Twin.takeFault {s t : State} (h : s.Twin t) (w : Word) (tr : Trap) :
    (s.takeFault w tr).Twin (t.takeFault w tr) := by
  obtain ⟨c, hc⟩ := h
  exact .of_eq rfl hc

/-! ## Command bodies on twins -/

/-- The bodies of a command on two blocks with the undelivered responses `vs` and `ws`: they complete in twins, sending no
response, or raise one trap. -/
inductive SameBody (vs ws : List Word) : Except Trap State → Except Trap State → Prop
  | ok {u v : State} (h : u.Twin v) (hu : u.rsp = vs) (hv : v.rsp = ws) : SameBody vs ws (.ok u) (.ok v)
  | error (tr : Trap) : SameBody vs ws (.error tr) (.error tr)

section
variable {vs ws : List Word} {r r' q q' : Except Trap State}

theorem SameBody.require (h : SameBody vs ws r r') (b : Bool) (tr : Trap) :
    SameBody vs ws (require b tr r) (require b tr r') := by
  cases b with
  | false => exact .error tr
  | true => exact h

theorem SameBody.requireBit (h : SameBody vs ws r r') (b : Bool) (w : Word) :
    SameBody vs ws (requireBit b w r) (requireBit b w r') :=
  h.require b _

theorem SameBody.ite {p : Prop} [Decidable p] (hr : SameBody vs ws r r') (hq : SameBody vs ws q q') :
    SameBody vs ws (if p then r else q) (if p then r' else q') := by
  split
  · exact hr
  · exact hq

/-- What is done to the state that a body leaves, if it sends no response. -/
theorem SameBody.map (h : SameBody vs ws r r') {f g : State → State} (hfg : ∀ u v, u.Twin v → (f u).Twin (g v))
    (hf : ∀ u, (f u).rsp = u.rsp) (hg : ∀ v, (g v).rsp = v.rsp) : SameBody vs ws (r.map f) (r'.map g) := by
  cases h with
  | ok h hu hv => exact .ok (hfg _ _ h) ((hf _).trans hu) ((hg _).trans hv)
  | error tr => exact .error tr

end

/-! ### The end of a pixel stream, by the encoder's state (R128) -/

section
variable {s : State}

theorem rleFinish_compress (hm : s.rleMode = .compress) :
    rleFinish s = (emitSection .compress s.rleCnt.toNat s.lastPixel s).map State.rleIdle := by
  rw [rleFinish, hm]

theorem rleFinish_raw (hm : s.rleMode = .raw) (hpend : s.rlePend = false) :
    rleFinish s = (emitSection .raw s.rleCnt.toNat s.rawBuf.flatten s).map State.rleIdle := by
  rw [rleFinish, hm, hpend]
  rfl

theorem rleFinish_pending (hm : s.rleMode = .raw) (hpend : s.rlePend = true) :
    rleFinish s = (emitSection .raw s.commitPending.rleCnt.toNat s.commitPending.rawBuf.flatten s.commitPending).map
      State.rleIdle := by
  rw [rleFinish, hm, hpend]
  rfl

end

/-! ### The units' bodies -/

section
variable {s t : State} (h : s.Twin t)
include h

theorem State.Twin.append (bs : List Byte) : SameBody s.rsp t.rsp (append bs s) (append bs t) := by
  obtain ⟨c, hc⟩ := h
  exact .ite (.error _) (.ok (.of_eq rfl hc) rfl rfl)

/-- An emission, and then an update of the encoder (R121). -/
theorem State.Twin.mapEmission (m : RleMode) (n : Nat) (bs : List Byte) {f : State → State}
    (hf : ∀ u v : State, u.Twin v → (f u).Twin (f v)) (hrsp : ∀ u, (f u).rsp = u.rsp) :
    SameBody s.rsp t.rsp ((emitSection m n bs s).map f) ((emitSection m n bs t).map f) :=
  SameBody.map (.ite (.ok h rfl rfl) (h.append _)) hf hrsp hrsp

theorem State.Twin.commitPending : s.commitPending.Twin t.commitPending := by
  obtain ⟨c, hc⟩ := h
  exact .of_eq rfl hc

theorem State.Twin.setPending (p : Pixel) : (s.setPending p).Twin (t.setPending p) := by
  obtain ⟨c, hc⟩ := h
  exact .of_eq rfl hc

theorem State.Twin.rleContinue : SameBody s.rsp t.rsp (rleContinue s) (rleContinue t) := by
  have hemit := h.mapEmission .compress maxCount s.lastPixel (f := State.rleIdle)
    (fun _ _ ⟨_, hc⟩ => .of_eq rfl hc) fun _ => rfl
  obtain ⟨c, hc⟩ := h
  exact .ite hemit (.ok (.of_eq rfl hc) rfl rfl)

theorem State.Twin.rleEndRun (p : Pixel) : SameBody s.rsp t.rsp (rleEndRun p s) (rleEndRun p t) := by
  have hemit := h.mapEmission .compress s.rleCnt.toNat s.lastPixel (f := fun t => t.rleIdle.setPending p)
    (fun _ _ ⟨_, hc⟩ => .of_eq rfl hc) fun _ => rfl
  obtain ⟨c, hc⟩ := h
  exact hemit

theorem State.Twin.rleStartRun : SameBody s.rsp t.rsp (rleStartRun s) (rleStartRun t) := by
  have hemit := h.mapEmission .raw s.rleCnt.toNat s.rawBuf.flatten
    (f := fun t => { t with rawBuf := [], rleMode := .compress, rleCnt := 2, rlePend := false })
    (fun _ _ ⟨_, hc⟩ => .of_eq rfl hc) fun _ => rfl
  obtain ⟨c, hc⟩ := h
  exact hemit

theorem State.Twin.rleLiteral (p : Pixel) : SameBody s.rsp t.rsp (rleLiteral p s) (rleLiteral p t) := by
  have hemit := h.commitPending.mapEmission .raw maxCount s.commitPending.rawBuf.flatten
    (f := fun t => { t with rawBuf := [], rleCnt := 0 }.setPending p) (fun _ _ ⟨_, hc⟩ => .of_eq rfl hc) fun _ => rfl
  have hcommit := h.commitPending.setPending p
  have hpend := h.setPending p
  obtain ⟨c, hc⟩ := h
  exact .ite (.ok hpend rfl rfl) (.ite hemit (.ok hcommit rfl rfl))

theorem State.Twin.rlePixel (p : Pixel) : SameBody s.rsp t.rsp (rlePixel p s) (rlePixel p t) := by
  have hcompress : SameBody s.rsp t.rsp (if p = s.lastPixel then Machine.rleContinue s else Machine.rleEndRun p s)
      (if p = s.lastPixel then Machine.rleContinue t else Machine.rleEndRun p t) := .ite h.rleContinue (h.rleEndRun p)
  have hraw : SameBody s.rsp t.rsp
      (if s.rlePend = true ∧ p = s.lastPixel then Machine.rleStartRun s else Machine.rleLiteral p s)
      (if s.rlePend = true ∧ p = s.lastPixel then Machine.rleStartRun t else Machine.rleLiteral p t) :=
    .ite h.rleStartRun (h.rleLiteral p)
  obtain ⟨c, hc⟩ := h
  cases hm : s.rleMode with
  | compress => 
    rw [rlePixel_compress hm, rlePixel_compress (s := s.withPast c) hm]
    exact hcompress
  | raw =>
    rw [rlePixel_raw hm, rlePixel_raw (s := s.withPast c) hm]
    exact hraw

theorem State.Twin.rlePushBody (w p : Word) : SameBody s.rsp t.rsp (rlePushBody w p s) (rlePushBody w p t) := by
  have hpixel := h.rlePixel (pixelOf (bppOf s.rleBpm1) p)
  obtain ⟨c, hc⟩ := h
  exact hpixel.requireBit _ _

theorem State.Twin.rleFinish : SameBody s.rsp t.rsp (rleFinish s) (rleFinish t) := by
  have hemit {u v : State} (huv : u.Twin v) (m : RleMode) (n : Nat) (bs : List Byte) :=
    huv.mapEmission m n bs (f := State.rleIdle) (fun _ _ ⟨_, hc⟩ => .of_eq rfl hc) fun _ => rfl
  have hcompress := hemit h .compress s.rleCnt.toNat s.lastPixel
  have hraw := hemit h .raw s.rleCnt.toNat s.rawBuf.flatten
  have hpending := hemit h.commitPending .raw s.commitPending.rleCnt.toNat s.commitPending.rawBuf.flatten
  obtain ⟨c, hc⟩ := h
  cases hm : s.rleMode with
  | compress =>
    rw [rleFinish_compress hm, rleFinish_compress (s := s.withPast c) hm]
    exact hcompress
  | raw =>
    cases hpend : s.rlePend with
    | false =>
      rw [rleFinish_raw hm hpend, rleFinish_raw (s := s.withPast c) hm hpend]
      exact hraw
    | true =>
      rw [rleFinish_pending hm hpend, rleFinish_pending (s := s.withPast c) hm hpend]
      exact hpending

theorem State.Twin.rleFlushBody (w : Word) : SameBody s.rsp t.rsp (rleFlushBody w s) (rleFlushBody w t) := by
  have hfinish := h.rleFinish
  obtain ⟨c, hc⟩ := h
  exact hfinish.requireBit _ _

theorem State.Twin.rowPushBody (w p : Word) : SameBody s.rsp t.rsp (rowPushBody w p s) (rowPushBody w p t) := by
  have happend := h.append (pixelOf (bppOf s.rowBpm1) p)
  obtain ⟨c, hc⟩ := h
  refine SameBody.requireBit (happend.map ?twin ?keeps ?keeps') s.ca w
  case twin =>
    rintro u _ ⟨d, -⟩
    exact .of_eq rfl fun _ => rfl
  case keeps | keeps' => exact fun _ => rfl

/-- ROW_END's body reads ROW_LAST only when a pixel of the row has come (R172). -/
theorem State.Twin.rowEndBody (w : Word) : SameBody s.rsp t.rsp (rowEndBody w s) (rowEndBody w t) := by
  obtain ⟨c, hc⟩ := h
  refine SameBody.requireBit ?_ s.ca w
  cases hlastv : s.rowLastv with
  | false =>
    have hlastv' : (s.withPast c).rowLastv = false := hlastv
    rw [hlastv']
    exact .error _
  | true =>
    have hlastv' : (s.withPast c).rowLastv = true := hlastv
    have hlast : (s.withPast c).rowLastPixel = s.rowLastPixel := congrArg (pixelOf _) (hc hlastv)
    rw [hlastv', hlast, require_true, require_true]
    exact .ite (.error _) (.ok (.of_eq rfl fun h => nomatch h) rfl rfl)

end

/-! ## Commands on twins -/

/-- What a command does to two blocks: it leaves twins and answers the same words after those still undelivered, or the model
stops on both. -/
inductive SameOutcome (s t : State) :
    Host.Outcome State Fault Refusal → Host.Outcome State Fault Refusal → Prop
  | next {u v : State} (ws : List Word) (h : u.Twin v) (hu : u.rsp = s.rsp ++ ws) (hv : v.rsp = t.rsp ++ ws) :
      SameOutcome s t (.next u) (.next v)
  | fault (r : Fault) : SameOutcome s t (.fault r) (.fault r)

section
variable {s t : State} (h : s.Twin t)
include h

theorem State.Twin.sameRespond (ws : List Word) : SameOutcome s t (.next (s.respond ws)) (.next (t.respond ws)) :=
  .next ws (h.respond ws ws) rfl rfl

theorem State.Twin.sameTakeFault (w : Word) (tr : Trap) :
    SameOutcome s t (.next (s.takeFault w tr)) (.next (t.takeFault w tr)) :=
  .next _ (h.takeFault w tr) rfl rfl

theorem State.Twin.finish (w : Word) {r q : Except Trap State} (hb : SameBody s.rsp t.rsp r q) :
    SameOutcome s t (finish w s r) (finish w t q) := by
  cases hb with
  | ok huv hu hv => exact .next _ (huv.respond _ _) (congrArg (· ++ _) hu) (congrArg (· ++ _) hv)
  | error tr => exact h.sameTakeFault w tr

/-- ADV is the same, since POS is no part of the past. -/
theorem State.Twin.finishAdv (w : Word) {r q : Except Trap State} (hb : SameBody s.rsp t.rsp r q) :
    SameOutcome s t (finishAdv w s r) (finishAdv w t q) := by
  cases hb with
  | @ok u v huv hu hv =>
    have hadv : v.pos - t.pos = u.pos - s.pos := by
      obtain ⟨c, -⟩ := h
      obtain ⟨d, -⟩ := huv
      rfl
    rw [finishAdv_ok, finishAdv_ok, hadv]
    exact .next _ (huv.respond _ _) (congrArg (· ++ _) hu) (congrArg (· ++ _) hv)
  | error tr => exact h.sameTakeFault w tr

end

theorem SameOutcome.ite {s t : State} {p : Prop} [Decidable p] {o o' q q' : Host.Outcome State Fault Refusal}
    (ho : SameOutcome s t o o') (hq : SameOutcome s t q q') : SameOutcome s t (if p then o else q) (if p then o' else q') := by
  split
  · exact ho
  · exact hq

theorem memRead_withPast (s c : State) : ∀ n a, (s.withPast c).memRead a n = s.memRead a n
  | 0, _ => rfl
  | n + 1, a => by
    rw [State.memRead, State.memRead, memRead_withPast s c n (a + 1)]
    rfl

theorem answerSlice_twin {s t : State} (h : s.Twin t) (w start stop : Word) :
    SameOutcome s t (answerSlice w start stop s) (answerSlice w start stop t) := by
  have hread : t.memRead = s.memRead := by
    obtain ⟨c, -⟩ := h
    exact funext fun a => funext fun n => memRead_withPast s c n a
  unfold answerSlice
  rw [hread]
  split
  · exact .fault _
  · exact h.sameRespond _

/-- Every command but RD, which shows CAUSE, FINFO and ROW_LAST, does the same to twins. -/
theorem exec_twin {i : Instr} {s t : State} (h : s.Twin t) (hrd : ∀ r, i ≠ .rd r) :
    SameOutcome s t (exec i s) (exec i t) := by
  obtain ⟨c, hc⟩ := id h
  cases i with
  | rd r => exact absurd rfl (hrd r)
  | nop => exact h.finish _ (.ok h rfl rfl)
  | curAlloc x =>
    have halloc : (s.allocate x).Twin ((s.withPast c).allocate x) := .of_eq rfl hc
    exact h.finish _ ((SameBody.ok halloc rfl rfl).require _ _)
  | curSeek x =>
    have hmove : (s.moveTo x.toNat).Twin ((s.withPast c).moveTo x.toNat) := .of_eq rfl hc
    exact h.finish _ (((SameBody.ok hmove rfl rfl).require _ _).requireBit _ _)
  | curTell => exact .ite (h.sameRespond _) (h.sameTakeFault _ _)
  | curWrite n data => exact h.finish _ ((h.append _).requireBit _ _)
  | curSlice start stop =>
    exact .ite (h.sameTakeFault _ _) (.ite (h.sameTakeFault _ _) (.ite (h.sameTakeFault _ _) (answerSlice_twin h _ _ _)))
  | packA8 | packBgr565 | packBgra8888 | packAbgr6666 | packAbgr8888 => exact h.sameRespond _
  | rleInit b =>
    refine h.finish _ (.ok ?_ ?_ ?_)
    exacts [.of_eq rfl hc, rfl, rfl]
  | rlePush p => exact h.finishAdv _ ((h.rlePushBody _ p).requireBit _ _)
  | rleFlush => exact h.finishAdv _ ((h.rleFlushBody _).requireBit _ _)
  | rowPush p => exact h.finishAdv _ ((h.rowPushBody _ p).requireBit _ _)
  | rowEnd => exact h.finishAdv _ ((h.rowEndBody _).requireBit _ _)
  | rowInit | cfg =>
    refine h.finish _ (.ok ?_ ?_ ?_)
    exacts [.of_eq rfl nofun, rfl, rfl]
  | pix rgba =>
    exact h.finishAdv _ (((SameBody.ite (h.rlePushBody _ _) (h.rowPushBody _ _)).requireBit _ _).requireBit _ _)
  | eor => exact h.finishAdv _ (((SameBody.ite (.ok h rfl rfl) (h.rowEndBody _)).requireBit _ _).requireBit _ _)
  | eoi => exact h.finishAdv _ (((SameBody.ite (h.rleFlushBody _) (.ok h rfl rfl)).requireBit _ _).requireBit _ _)

end Sys2Proof.Machine
end

section
/-! PROOF. One command through the port: the words the host sends make the block run it, and what the host reads is the answer
(R63, R70, R81). -/

namespace Sys2Proof.Driver

open Sys2Proof.Machine

/-! ## The block runs what the host sends -/

/-- Where an outcome leaves the block, unless the model stops. -/
def nextState : Host.Outcome State Fault Refusal → Option State
  | .next t => some t
  | .fault _ => none
  | .refused _ => none

theorem runEvents_cons (e : PortEvent) (es : List PortEvent) (s : State) :
    runEvents (e :: es) s = (nextState (step { s with input := [e] })).bind (runEvents es) := by
  rw [runEvents]
  cases step { s with input := [e] } <;> rfl

/-- The remaining words of a command, of which `k` have arrived: the last one runs it. -/
theorem runEvents_drop_encode {i : Instr} {s : State} (hi : i.wellFormed = true) (hf : s.fault = false) :
    ∀ {n k : Nat}, k + (n + 1) = (encode i).length →
      runEvents (((encode i).drop k).map PortEvent.commandWord) (s.withPort ((encode i).take k) []) =
        nextState (exec i (s.withPort [] []))
  | n, k, hk => by
    have hlt : k < (encode i).length := by omega
    have htake : (encode i).take k ++ [(encode i)[k]] = (encode i).take (k + 1) := List.take_append_getElem hlt
    rw [List.drop_eq_getElem_cons hlt, List.map_cons, runEvents_cons]
    cases n with
    | zero =>
      have hd : decode ((encode i).take k ++ [(encode i)[k]]) = .command i [] := by
        rw [htake, hk, List.take_length]
        exact decode_of_encode_eq hi rfl
      rw [List.drop_eq_nil_of_le hk.ge]
      exact (congrArg (fun o => (nextState o).bind some) (step_withPort_runs hf hd)).trans (Option.bind_fun_some _)
    | succ n =>
      have hd : decode ((encode i).take k ++ [(encode i)[k]]) = .incomplete := by
        rw [htake]
        exact decode_take_encode hi (by omega)
      have hrest := runEvents_drop_encode hi hf (n := n) (k := k + 1) (by omega)
      rw [← htake] at hrest
      exact (congrArg (fun o => (nextState o).bind _) (step_withPort_waits hf hd)).trans hrest

/-- A block that an encode can begin on: running, and with no command in part (R229). -/
structure Ready (s : State) : Prop where
  running : s.fault = false
  no_part : s.part = []

theorem ready_prepare (s : State) : Ready (prepare s) := ⟨prepare_fault s, prepare_part s⟩

/-- What stands in `input` does not show while the host drives the port. -/
theorem runEvents_withPort {s : State} (hp : s.part = []) (e : PortEvent) (es : List PortEvent) :
    runEvents (e :: es) s = runEvents (e :: es) (s.withPort [] []) := by
  have hs : { s with input := [e] } = { s.withPort [] [] with input := [e] } := by
    rw [← hp]
    rfl
  rw [runEvents_cons, runEvents_cons, hs]

/-- What the host reads of an outcome, after the `n` response words that waited before. -/
def reply (n : Nat) (o : Host.Outcome State Fault Refusal) : Except EncodeError (List Word × State) :=
  match nextState o with
  | none => .error .blockFault
  | some t =>
    match t.rsp.drop n with
    | [] => .error .blockFault
    | h :: ws => if kindField h = 0 then .ok (ws, { t with rsp := [] }) else .error .blockFault

/-- Sending a command to a ready block executes it. -/
theorem issue_eq_reply {i : Instr} {s : State} (hi : i.wellFormed = true) (hs : Ready s) :
    issue i s = reply s.rsp.length (exec i (s.withPort [] [])) := by
  obtain ⟨hf, hp⟩ := hs
  have hrun : runEvents ((encode i).map PortEvent.commandWord) s = nextState (exec i (s.withPort [] [])) := by
    rw [← runEvents_drop_encode hi hf (n := i.operands.length) (k := 0) (by rw [encode, List.length_cons, Nat.zero_add])]
    exact runEvents_withPort hp _ _
  rw [issue, hrun]
  rfl

/-- KIND of an OK response (R81). -/
theorem kindField_ok (w : Word) : kindField (w &&& 0xFF000000#32) = 0 := by
  rw [kindField, BitVec.extractLsb'_and, show (0xFF000000#32).extractLsb' 16 8 = 0 by decide]
  exact BitVec.and_zero

/-- KIND of a FAULT response (R81). -/
theorem kindField_faultHeader (w : Word) : kindField (faultHeader w) = 1 := by
  have hopc := kindField_ok w
  rw [kindField] at hopc
  rw [kindField, faultHeader, opcField_placed, BitVec.extractLsb'_or, hopc]
  decide

/-- The answer of a command that completes. -/
theorem reply_answers {s t : State} {w : Word} {ws : List Word} (h : Answers w s t ws) :
    reply s.rsp.length (.next t) = .ok (ws, { t with rsp := [] }) := by
  have hdrop : t.rsp.drop s.rsp.length = (w &&& 0xFF000000#32) :: ws := by rw [h, List.drop_left]
  simp only [reply, nextState, hdrop, kindField_ok, if_true]

/-- A command that completes is one that the host gets an answer to, and an OK response. -/
theorem issue_completes {i : Instr} {s t : State} {ws : List Word} (hi : i.wellFormed = true) (hs : Ready s)
    (hexec : exec i (s.withPort [] []) = .next t) (h : Answers i.word s t ws) : issue i s = .ok (ws, { t with rsp := [] }) := by
  rw [issue_eq_reply hi hs, hexec, reply_answers h]

/-- The same, for a command whose response is known. -/
theorem issue_responds {i : Instr} {s u : State} {h : Word} {ws : List Word} (hi : i.wellFormed = true) (hs : Ready s)
    (hh : okHeader i.word = h) (hexec : exec i (s.withPort [] []) = .next (u.respond (h :: ws))) (hu : u.rsp = s.rsp) :
    issue i s = .ok (ws, { u with rsp := [] }) :=
  issue_completes hi hs (t := u.respond (h :: ws)) hexec (by rw [Answers, State.respond_rsp, hu, ← hh, okHeader_eq])

/-- A FAULT response is no answer that the host accepts. -/
theorem reply_takeFault (s : State) (w : Word) (tr : Trap) :
    reply s.rsp.length (.next (s.takeFault w tr)) = .error .blockFault := by
  simp [reply, nextState, kindField_faultHeader]

/-! ## Twins -/

/-- Two encodes end alike: with results that are related, or with the same error. -/
inductive EndAlike {α β : Type} (R : α → β → Prop) : Except EncodeError α → Except EncodeError β → Prop
  | ok {a : α} {b : β} (h : R a b) : EndAlike R (.ok a) (.ok b)
  | error (e : EncodeError) : EndAlike R (.error e) (.error e)

theorem EndAlike.bind {α β γ δ : Type} {R : α → β → Prop} {Q : γ → δ → Prop} {x : Except EncodeError α}
    {y : Except EncodeError β} {f : α → Except EncodeError γ} {g : β → Except EncodeError δ} (h : EndAlike R x y)
    (hfg : ∀ a b, R a b → EndAlike Q (f a) (g b)) : EndAlike Q (x.bind f) (y.bind g) := by
  cases h with
  | ok h => exact hfg _ _ h
  | error e => exact .error e

/-- Two ready blocks that differ in their past only. -/
structure ReadyTwins (s t : State) : Prop where
  ready : Ready s
  twin : s.Twin t

/-- Results with the same data, that leave ready twins. -/
def SameResult {α : Type} (a b : α × State) : Prop := a.1 = b.1 ∧ ReadyTwins a.2 b.2

theorem ReadyTwins.ready_right {s t : State} (h : ReadyTwins s t) : Ready t := by
  obtain ⟨⟨hf, hp⟩, ⟨c, -⟩⟩ := h
  exact ⟨hf, hp⟩

/-- A command leaves a ready block ready, or in the fault state (R244). -/
theorem Ready.exec {i : Instr} {s t : State} (hs : Ready s) (h : exec i s = .next t) :
    Ready t ∨ ∃ w tr, t = s.takeFault w tr := by
  cases exec_ends h with
  | completes ws he =>
    obtain ⟨hfault, -, -, hpart⟩ := he.ports_eq
    exact .inl ⟨hfault.trans hs.running, hpart.trans hs.no_part⟩
  | @faults w tr _ => exact .inr ⟨w, tr, rfl⟩

/-- The host reads the same of the same outcomes, and where it goes on the block is ready. -/
theorem endAlike_reply {s t : State} {o q : Host.Outcome State Fault Refusal} (h : SameOutcome s t o q)
    (hready : ∀ u, o = .next u → Ready u ∨ ∃ w tr, u = s.takeFault w tr) :
    EndAlike SameResult (reply s.rsp.length o) (reply t.rsp.length q) := by
  cases h with
  | fault r => exact .error _
  | @next u v ws huv hu hv =>
    have htwin : State.Twin { u with rsp := [] } { v with rsp := [] } := by
      obtain ⟨c, hc⟩ := huv
      exact .of_eq rfl hc
    cases ws with
    | nil => simpa [reply, nextState, hu, hv] using EndAlike.error _
    | cons w ws =>
      obtain hu' | ⟨x, tr, rfl⟩ := hready u rfl
      · by_cases hk : kindField w = 0
        · simp only [reply, nextState, hu, hv, List.drop_left, hk, if_true]
          exact .ok ⟨rfl, ⟨hu'.running, hu'.no_part⟩, htwin⟩
        · simp only [reply, nextState, hu, hv, List.drop_left, hk, if_false]
          exact .error _
      · obtain ⟨rfl, -⟩ := List.cons.inj (List.append_cancel_left hu)
        rw [reply_takeFault]
        simpa [reply, nextState, hv, kindField_faultHeader] using EndAlike.error _

/-- A command but RD is answered alike by twins. -/
theorem ReadyTwins.issue {i : Instr} {s t : State} (h : ReadyTwins s t) (hi : i.wellFormed = true) (hrd : ∀ r, i ≠ .rd r) :
    EndAlike SameResult (issue i s) (issue i t) := by
  obtain ⟨hs, htwin⟩ := id h
  have hports : (s.withPort [] []).Twin (t.withPort [] []) := by
    obtain ⟨c, hc⟩ := htwin
    exact .of_eq rfl hc
  rw [issue_eq_reply hi hs, issue_eq_reply hi h.ready_right]
  exact endAlike_reply (s := s.withPort [] []) (t := t.withPort [] []) (exec_twin hports hrd) fun u hu =>
    Ready.exec (s := s.withPort [] []) ⟨hs.running, rfl⟩ hu

/-! ## Sequences of commands -/

/-- A command that the host sends during an encode: the port can carry it, and it shows nothing of the past. -/
def Sendable (i : Instr) : Prop := i.wellFormed = true ∧ ∀ r, i ≠ .rd r

theorem issueAll_cons (i : Instr) (is : List Instr) (s : State) :
    issueAll (i :: is) s = (issue i s).bind fun r => issueAll is r.2 := by
  rw [issueAll]
  cases issue i s <;> rfl

theorem issueAll_cons_ok {i : Instr} {s u : State} {ws : List Word} (h : issue i s = .ok (ws, u)) (is : List Instr) :
    issueAll (i :: is) s = issueAll is u := by
  rw [issueAll_cons, h]
  rfl

theorem issueAll_append (is js : List Instr) (s : State) : issueAll (is ++ js) s = (issueAll is s).bind (issueAll js) := by
  induction is generalizing s with
  | nil => rfl
  | cons i is ih =>
    rw [List.cons_append, issueAll_cons, issueAll_cons]
    cases issue i s with
    | error e => rfl
    | ok r => exact ih r.2

theorem ReadyTwins.issueAll {is : List Instr} (his : ∀ i ∈ is, Sendable i) :
    ∀ {s t : State}, ReadyTwins s t → EndAlike ReadyTwins (issueAll is s) (issueAll is t) := by
  induction is with
  | nil => exact fun h => .ok h
  | cons i is ih =>
    intro s t h
    obtain ⟨⟨hi, hrd⟩, his⟩ := List.forall_mem_cons.mp his
    rw [issueAll_cons, issueAll_cons]
    exact (h.issue hi hrd).bind fun a b hab => ih his hab.2

end Sys2Proof.Driver
end

section
/-! PROOF. An encode forgets what came before it (R229): after the prologue two blocks differ in their past only, and the rest of
the encode answers alike on them. -/

namespace Sys2Proof.Driver

open Sys2Proof.Machine

/-! ## The prologue (R217) -/

/-- CAP_MAX is a word's value (R9). -/
theorem capMax_lt : Config.capMax < 2 ^ 32 := by
  have hlt := Config.capMaxLessOne.isLt
  rw [Config.capMax]
  omega

/-- The fresh block after the prologue of an encode. -/
def started (cap : Nat) (fmt : Fmt) (rle : Bool) : State :=
  { State.reset with
    ca := true, rleCfg := true, rowCfg := true, encCfg := true
    cap := BitVec.ofNat 32 cap, pos := BitVec.ofNat 32 headerLength, extent := BitVec.ofNat 32 headerLength
    encFmt := fmt, encRle := rle, rleBpm1 := bpm1Of fmt, rowBase := BitVec.ofNat 32 headerLength, rowBpm1 := bpm1Of fmt }

theorem issue_curAlloc {s : State} (hs : Ready s) {x : Word} (hx : x.toNat ≤ Config.capMax) :
    issue (.curAlloc x) s = .ok ([], { (s.withPort [] []).allocate x with rsp := [] }) :=
  issue_responds rfl hs (okHeader_curAlloc x) (exec_curAlloc_fits hx _) rfl

theorem issue_cfg {s : State} (hs : Ready s) (f : Fmt) (r : Bool) (base : Word) :
    issue (.cfg f r base) s =
      .ok ([], { ((s.withPort [] []).rleSetup (bpm1Of f)).rowSetup (bpm1Of f) base with
        encFmt := f, encRle := r, encCfg := true, rsp := [] }) :=
  issue_responds rfl hs rfl
    (u := { ((s.withPort [] []).rleSetup (bpm1Of f)).rowSetup (bpm1Of f) base with
      encFmt := f, encRle := r, encCfg := true }) rfl rfl

theorem issue_curSeek {s : State} (hs : Ready s) (hca : s.ca = true) {x : Word} (hx : x.toNat ≤ s.cap.toNat) :
    issue (.curSeek x) s = .ok ([], { (s.withPort [] []).moveTo x.toNat with rsp := [] }) := by
  have hexec := (curSeekMovesPos x (s.withPort [] []) hca).1 hx
  have hmove := moveTo_toNat (s.withPort [] []) x
  exact hmove ▸ issue_responds rfl hs (okHeader_curSeek x) hexec rfl

/-- The prologue takes every ready block to the same state, its past apart: of the block before, CAUSE, FINFO and ROW_LAST are
left. -/
theorem issueAll_prologue {s : State} (hs : Ready s) {cap : Nat} (hcap : cap ≤ Config.capMax) (hlen : headerLength ≤ cap)
    (fmt : Fmt) (rle : Bool) : ∃ c, issueAll (prologue cap fmt rle) s = .ok ((started cap fmt rle).withPast c) := by
  have hx : (BitVec.ofNat 32 cap).toNat = cap := by rw [BitVec.toNat_ofNat, Nat.mod_eq_of_lt (hcap.trans_lt capMax_lt)]
  refine ⟨{ State.reset with cause := s.cause, finfo := s.finfo, rowLast := s.rowLast }, ?_⟩
  obtain ⟨⟩ := s
  obtain ⟨hf, hp⟩ := id hs
  dsimp only at hf hp
  subst hf hp
  refine (issueAll_cons_ok (issue_curAlloc hs (hx.trans_le hcap)) _).trans ?_
  refine (issueAll_cons_ok (issue_cfg ⟨rfl, rfl⟩ _ _ _) _).trans ?_
  refine (issueAll_cons_ok (issue_curSeek ⟨rfl, rfl⟩ rfl ?fits) _).trans rfl
  exact hlen.trans hx.ge

/-! ## The commands after the prologue (R218 to R225) -/

/-- The commands of rows are PIX and EOR (R218). -/
theorem mem_rowCommands {img : Image} {y : Nat} {i : Instr} (h : i ∈ rowCommands img y) :
    (∃ rgba, i = .pix rgba) ∨ i = .eor := by
  obtain hi | hi := List.mem_append.mp h
  · obtain ⟨x, -, rfl⟩ := List.mem_map.mp hi
    exact .inl ⟨_, rfl⟩
  · exact .inr (List.mem_singleton.mp hi)

/-- The commands of an image are PIX and EOR (R218, R219). -/
theorem mem_imageCommands {img : Image} {rle : Bool} {i : Instr} (h : i ∈ imageCommands img rle) :
    (∃ rgba, i = .pix rgba) ∨ i = .eor := by
  obtain hi | hi := List.mem_append.mp h
  · obtain ⟨y, -, hi⟩ := List.mem_flatMap.mp hi
    exact mem_rowCommands hi
  · cases rle with
    | true => cases hi
    | false => exact mem_rowCommands hi

/-- The commands between the prologue and CUR_TELL. -/
def bodyCommands (img : Image) (rle : Bool) : List Instr := imageCommands img rle ++ [.eoi]

theorem sendable_bodyCommands (img : Image) (rle : Bool) : ∀ i ∈ bodyCommands img rle, Sendable i := by
  intro i hi
  obtain hi | hi := List.mem_append.mp hi
  · obtain ⟨rgba, rfl⟩ | rfl := mem_imageCommands hi <;> exact ⟨rfl, nofun⟩
  · obtain rfl := List.mem_singleton.mp hi
    exact ⟨rfl, nofun⟩

/-- Ten words carry the 40 bytes of the header (R74). -/
theorem wellFormed_header (img : Image) (fmt : Fmt) (rle : Bool) (t : Word) :
    (Instr.curWrite 40 (headerWords img fmt rle t)).wellFormed = true := by
  have hwords : (10 == wordsFor (BitVec.ofNat 32 40).toNat) = true := by decide
  exact hwords

theorem sendable_headerCommands (img : Image) (fmt : Fmt) (rle : Bool) (t : Word) :
    ∀ i ∈ headerCommands img fmt rle t, Sendable i := by
  refine List.forall_mem_cons.mpr ⟨⟨rfl, nofun⟩, List.forall_mem_singleton.mpr ?_⟩
  rw [curWriteW32_eq]
  exact ⟨wellFormed_header img fmt rle t, nofun⟩

/-- The end of an encode, from CUR_TELL on (R220 to R225). -/
def closing (img : Image) (fmt : Fmt) (rle : Bool) (s : State) : Except EncodeError (List Byte × State) :=
  (issue .curTell s).bind fun tell =>
    (issueAll (headerCommands img fmt rle (tell.1.headD 0)) tell.2).bind fun t =>
      (issue (.curSlice none none) t).bind fun out => .ok (sliceBytes out.1, out.2)

theorem drive_eq (img : Image) (fmt : Fmt) (rle : Bool) (s : State) :
    drive img fmt rle s =
      ((issueAll (prologue (capacity img.width.toNat img.height.toNat fmt.bpp rle) fmt rle) s).bind
        (issueAll (bodyCommands img rle))).bind (closing img fmt rle) := by
  rw [← issueAll_append, bodyCommands, ← List.append_assoc, drive, streamCommands]
  cases issueAll (_ ++ _) s with
  | error e => rfl
  | ok s1 =>
    dsimp only [Except.bind, closing]
    cases issue .curTell s1 with
    | error e => rfl
    | ok tell =>
      dsimp only
      cases issueAll (headerCommands img fmt rle (tell.1.headD 0)) tell.2 with
      | error e => rfl
      | ok t =>
        dsimp only
        cases issue (.curSlice none none) t <;> rfl

theorem ReadyTwins.closing {s t : State} (h : ReadyTwins s t) (img : Image) (fmt : Fmt) (rle : Bool) :
    EndAlike SameResult (closing img fmt rle s) (closing img fmt rle t) := by
  refine (h.issue (i := .curTell) rfl nofun).bind fun a b ⟨htell, hab⟩ => ?_
  rw [htell]
  refine (hab.issueAll (sendable_headerCommands img fmt rle _)).bind fun c d hcd => ?_
  refine (hcd.issue (i := .curSlice none none) rfl nofun).bind fun e f ⟨hout, hef⟩ => ?_
  exact .ok ⟨congrArg sliceBytes hout, hef⟩

/-! ## R229 -/

theorem headerLength_le_capacity (w h bpp : Nat) (rle : Bool) : headerLength ≤ capacity w h bpp rle := Nat.le_add_left _ _

theorem started_twins (cap : Nat) (fmt : Fmt) (rle : Bool) (c d : State) :
    ReadyTwins ((started cap fmt rle).withPast c) ((started cap fmt rle).withPast d) :=
  ⟨⟨rfl, rfl⟩, .of_eq rfl nofun⟩

theorem drive_endAlike {img : Image} {fmt : Fmt} {rle : Bool} {s t : State} (hs : Ready s) (ht : Ready t)
    (hcap : capacity img.width.toNat img.height.toNat fmt.bpp rle ≤ Config.capMax) :
    EndAlike SameResult (drive img fmt rle s) (drive img fmt rle t) := by
  obtain ⟨c, hc⟩ := issueAll_prologue hs hcap (headerLength_le_capacity _ _ _ _) fmt rle
  obtain ⟨d, hd⟩ := issueAll_prologue ht hcap (headerLength_le_capacity _ _ _ _) fmt rle
  rw [drive_eq, drive_eq, hc, hd]
  exact ((started_twins _ fmt rle c d).issueAll (sendable_bodyCommands img rle)).bind fun _ _ hab => hab.closing img fmt rle

theorem EndAlike.map_fst {α : Type} {x y : Except EncodeError (α × State)} (h : EndAlike SameResult x y) :
    x.map Prod.fst = y.map Prod.fst := by
  cases h with
  | ok h => exact congrArg Except.ok h.1
  | error e => rfl

/-- Settles O59: the host's checks do not look at the block, and its prologue leaves no past that an encode reads. -/
theorem encodeForgetsThePast : Obligations.EncodeForgetsThePast := by
  unfold Obligations.EncodeForgetsThePast
  intro img rle f s t
  unfold hostEncode
  split
  · rfl
  split
  · rfl
  split
  · rfl
  · exact (drive_endAlike (ready_prepare s) (ready_prepare t) (by omega)).map_fst

end Sys2Proof.Driver
end

section
/-! PROOF. The front end's commands complete where the units' commands do (R191 to R193), from any block that differs from the
units' in its past only. -/

namespace Sys2Proof.Machine

/-! ## A block in an encode -/

/-- The commands that give the buffer its size or a unit its setup (R101, R122, R170, R190). -/
def changesSetup : Instr → Bool
  | .curAlloc _ | .rleInit _ | .rowInit _ _ | .cfg _ _ _ => true
  | _ => false

/-- A running block in an encode with capacity `cap`, format `f` and mode `rle`, none of which its commands change. -/
structure Encoding (cap : Word) (f : Fmt) (rle : Bool) (s : State) : Prop where
  cursor : s.CursorInv
  front : s.FrontInv
  configured : s.encCfg = true
  allocated : s.ca = true
  running : s.fault = false
  cap_eq : s.cap = cap
  fmt_eq : s.encFmt = f
  rle_eq : s.encRle = rle

theorem State.CursorInv.exec {i : Instr} {s t : State} (hs : s.CursorInv) (h : exec i s = .next t) : t.CursorInv := by
  cases exec_ends h with
  | completes ws he => exact (he.cursorInv hs).congr rfl
  | faults w htr => exact hs.congr rfl

/-- What is set up stays so until one of the commands of `changesSetup`. -/
theorem Effect.eq_withData {i : Instr} {s u : State} (h : Effect s i u) (hi : changesSetup i = false) : u = s.withData u := by
  obtain ⟨_, rfl, -⟩ | ⟨_, rfl, -⟩ | ⟨_, _, rfl, -⟩ | ⟨_, _, _, rfl, -⟩ | hdata := h.setup_or_data
  · cases hi
  · cases hi
  · cases hi
  · cases hi
  · exact hdata

section
variable {cap : Word} {f : Fmt} {rle : Bool} {s t : State}

theorem Encoding.exec {i : Instr} (hs : Encoding cap f rle s) (hi : changesSetup i = false) (h : exec i s = .next t)
    (ht : t.fault = false) : Encoding cap f rle t := by
  have hcursor := hs.cursor.exec h
  cases exec_ends h with
  | faults w htr => cases ht
  | @completes u ws he =>
    have hdata := he.eq_withData hi
    obtain ⟨-, hfront, hcfg, hca, -, hcap, hfmt, hrle⟩ := hs
    refine ⟨hcursor, ?_, ?_, ?_, ht, ?_, ?_, ?_⟩
    all_goals rw [hdata]; assumption

end

/-! ## A body under another command word -/

theorem State.twin_respond (s : State) (ws : List Word) : s.Twin (s.respond ws) := .of_eq rfl fun _ => rfl

theorem exists_finishAdv_word {v w : Word} {s u : State} {body : Except Trap State} (h : finishAdv v s body = .next u)
    (hu : u.fault = false) : ∃ t, finishAdv w s body = .next t ∧ t.fault = false ∧ u.Twin t := by
  cases body with
  | error tr =>
    rw [finishAdv_error] at h
    cases h
    cases hu
  | ok x =>
    rw [finishAdv_ok] at h
    cases h
    have hx : x.fault = false := hu
    exact ⟨_, finishAdv_ok w s x, hx, (State.Twin.refl x).respond _ _⟩

/-- The unit commands that PIX, EOR and EOI stand for (R191 to R193). -/
def unitCommands (f : Fmt) (rle : Bool) : Instr → List Instr
  | .pix rgba => [if rle then .rlePush (fromLE (pack f rgba)) else .rowPush (fromLE (pack f rgba))]
  | .eor => if rle then [] else [.rowEnd]
  | .eoi => if rle then [.rleFlush] else []
  | i => [i]

theorem unitCommands_pix (f : Fmt) (rle : Bool) (rgba : Word) : unitCommands f rle (.pix rgba) =
    [if rle then .rlePush (fromLE (pack f rgba)) else .rowPush (fromLE (pack f rgba))] := rfl

theorem unitCommands_eor (f : Fmt) (rle : Bool) : unitCommands f rle .eor = if rle then [] else [.rowEnd] := rfl

theorem unitCommands_eoi (f : Fmt) (rle : Bool) : unitCommands f rle .eoi = if rle then [.rleFlush] else [] := rfl

/-- The commands of an image (R218 to R220). -/
def isFrontEnd : Instr → Bool
  | .pix _ | .eor | .eoi => true
  | _ => false

theorem isFrontEnd_keeps_setup {i : Instr} (hi : isFrontEnd i = true) : changesSetup i = false := by
  cases i with
  | pix | eor | eoi => rfl
  | _ => cases hi

theorem unitCommands_ne_rd (f : Fmt) (rle : Bool) {i : Instr} (hi : isFrontEnd i = true) :
    ∀ j ∈ unitCommands f rle i, ∀ r, j ≠ .rd r := by
  cases i with
  | pix rgba =>
    refine List.forall_mem_singleton.mpr ?_
    cases rle <;> exact nofun
  | eor =>
    rw [unitCommands_eor]
    cases rle <;> simp
  | eoi =>
    rw [unitCommands_eoi]
    cases rle <;> simp
  | _ => cases hi

theorem execAll_singleton {i : Instr} {s u : State} (h : execAll [i] s = some u) : exec i s = .next u ∧ u.fault = false := by
  obtain ⟨v, hexec, hv, hu⟩ := execAll_cons.mp h
  cases hu
  exact ⟨hexec, hv⟩

section
variable {cap : Word} {f : Fmt} {rle : Bool} {s t u : State}

/-- A front-end command completes where its unit command does (R195). -/
theorem Encoding.exists_exec {i : Instr} (hs : Encoding cap f rle s) (hi : isFrontEnd i = true)
    (h : execAll (unitCommands f rle i) s = some u) : ∃ t, Machine.exec i s = .next t ∧ t.fault = false ∧ u.Twin t := by
  obtain ⟨-, hfront, henc, hca, hf, -, rfl, rfl⟩ := hs
  obtain ⟨hrleCfg, hrowCfg, -, -⟩ := hfront henc
  cases i with
  | pix rgba =>
    obtain ⟨hexec, hu⟩ := execAll_singleton h
    cases hmode : s.encRle with
    | true =>
      rw [hmode, if_pos rfl, exec_rlePush_body hca hrleCfg] at hexec
      rw [exec_pix_rle henc hca hmode]
      exact exists_finishAdv_word hexec hu
    | false =>
      rw [hmode, if_neg Bool.false_ne_true, exec_rowPush_body hca hrowCfg] at hexec
      rw [exec_pix_raw henc hca hmode]
      exact exists_finishAdv_word hexec hu
  | eor =>
    rw [unitCommands_eor] at h
    cases hmode : s.encRle with
    | true =>
      rw [hmode] at h
      obtain rfl : s = u := Option.some.inj h
      exact ⟨_, exec_eor_rle henc hca hmode, hf, s.twin_respond _⟩
    | false =>
      rw [hmode] at h
      obtain ⟨hexec, hu⟩ := execAll_singleton h
      rw [exec_rowEnd_body hca hrowCfg] at hexec
      rw [exec_eor_raw henc hca hmode]
      exact exists_finishAdv_word hexec hu
  | eoi =>
    rw [unitCommands_eoi] at h
    cases hmode : s.encRle with
    | true =>
      rw [hmode] at h
      obtain ⟨hexec, hu⟩ := execAll_singleton h
      rw [exec_rleFlush_body hca hrleCfg] at hexec
      rw [exec_eoi_rle henc hca hmode]
      exact exists_finishAdv_word hexec hu
    | false =>
      rw [hmode] at h
      obtain rfl : s = u := Option.some.inj h
      exact ⟨_, exec_eoi_raw henc hca hmode, hf, s.twin_respond _⟩
  | _ => cases hi

/-- A sequence without RD completes from a twin, too, in a twin. -/
theorem State.Twin.execAll : ∀ {is : List Instr} {s s' t : State}, s.Twin s' → (∀ i ∈ is, ∀ r, i ≠ .rd r) →
    Machine.execAll is s = some t → ∃ t', Machine.execAll is s' = some t' ∧ t.Twin t'
  | [], s, s', t, h, _, ht => ⟨s', rfl, Option.some.inj ht ▸ h⟩
  | i :: is, s, s', t, h, his, ht => by
    obtain ⟨hi, his⟩ := List.forall_mem_cons.mp his
    obtain ⟨u, hexec, hu, hrest⟩ := execAll_cons.mp ht
    have hsame := exec_twin h hi
    rw [hexec] at hsame
    generalize hq : exec i s' = q at hsame
    obtain @⟨_, v, ws, huv, -, -⟩ := hsame
    have hv : v.fault = false := by
      obtain ⟨c, -⟩ := huv
      exact hu
    obtain ⟨t', ht', htwin⟩ := State.Twin.execAll huv his hrest
    exact ⟨t', execAll_cons.mpr ⟨v, hq, hv, ht'⟩, htwin⟩

/-- Front-end commands complete where their unit commands complete, from a block that differs in its past only. -/
theorem Encoding.execAll : ∀ {is : List Instr} {s s' t : State}, Encoding cap f rle s' → s.Twin s' →
    (∀ i ∈ is, isFrontEnd i = true) → Machine.execAll (is.flatMap (unitCommands f rle)) s = some t →
    ∃ t', Machine.execAll is s' = some t' ∧ Encoding cap f rle t'
  | [], s, s', t, hs, _, _, _ => ⟨s', rfl, hs⟩
  | i :: is, s, s', t, hs, htwin, his, ht => by
    obtain ⟨hi, his⟩ := List.forall_mem_cons.mp his
    obtain ⟨u, hunit, hrest⟩ := execAll_append.mp ht
    obtain ⟨v, hunit', huv⟩ := htwin.execAll (unitCommands_ne_rd f rle hi) hunit
    obtain ⟨w, hexec, hw, hvw⟩ := hs.exists_exec hi hunit'
    obtain ⟨t', ht', hend⟩ := Encoding.execAll (hs.exec (isFrontEnd_keeps_setup hi) hexec hw) (huv.trans hvw) his hrest
    exact ⟨t', execAll_cons.mpr ⟨w, hexec, hw, ht'⟩, hend⟩

end

end Sys2Proof.Machine
end

section
/-! PROOF. An encode that passes the host's checks completes (R247), and so auto mode does (R226 to R228): the payload fits what
R214 to R216 give it, the header is 40 bytes, and the output ends at EXTENT. -/

namespace Sys2Proof.Driver

open Sys2Proof.Machine

/-! ## The host's view of commands that complete -/

theorem Ready.withPort_twin {s t : State} (ht : Ready t) (h : s.Twin t) : s.Twin (t.withPort [] []) := by
  obtain ⟨c, hc⟩ := h
  refine .of_eq ?_ hc
  rw [← ht.no_part]
  rfl

/-- A command that completes in the model is one that the host gets the answer of R81's table to, from every twin. -/
theorem issue_of_exec {i : Instr} {s s' t : State} (hi : Sendable i) (hs : s.CursorInv) (htwin : s.Twin s') (hs' : Ready s')
    (hexec : exec i s = .next t) (ht : t.fault = false) :
    ∃ t', issue i s' = .ok (resultWords i s t, t') ∧ t.Twin t' ∧ Ready t' := by
  have hanswer := exec_answers hs hexec ht
  have hsame := exec_twin (hs'.withPort_twin htwin) hi.2
  rw [hexec] at hsame
  generalize hq : exec i (s'.withPort [] []) = q at hsame
  obtain @⟨_, v, ws, htv, hu, hv⟩ := hsame
  obtain rfl := List.append_cancel_left (hanswer.symm.trans hu)
  have hready := Ready.exec (s := s'.withPort [] []) ⟨hs'.running, rfl⟩ hq
  obtain ⟨c, hc⟩ := htv
  refine ⟨_, issue_completes hi.1 hs' hq hv, .of_eq rfl hc, ht, ?_⟩
  obtain hready | ⟨w, tr, hfault⟩ := hready
  · exact hready.no_part
  · exact congrArg State.part hfault

/-- The same for a sequence of commands. -/
theorem issueAll_of_execAll : ∀ {is : List Instr} {s s' t : State}, (∀ i ∈ is, Sendable i) → s.CursorInv → s.Twin s' →
    Ready s' → execAll is s = some t → ∃ t', issueAll is s' = .ok t' ∧ t.Twin t' ∧ Ready t'
  | [], s, s', t, _, _, htwin, hs', ht => ⟨s', rfl, Option.some.inj ht ▸ htwin, hs'⟩
  | i :: is, s, s', t, his, hs, htwin, hs', ht => by
    obtain ⟨hi, his⟩ := List.forall_mem_cons.mp his
    obtain ⟨u, hexec, hu, hrest⟩ := execAll_cons.mp ht
    obtain ⟨u', hissue, hutwin, hu'⟩ := issue_of_exec hi hs htwin hs' hexec hu
    rw [issueAll_cons_ok hissue]
    exact issueAll_of_execAll his (hs.exec hexec) hutwin hu' hrest

/-! ## The payload has room (R214 to R216, R231) -/

/-- The packed pixels of one row, as a unit takes them. -/
def rowWords (img : Image) (fmt : Fmt) (y : Nat) : List Word :=
  (List.range img.width.toNat).map fun x => fromLE (pack fmt (img.pixel x y))

theorem rowWords_length (img : Image) (fmt : Fmt) (y : Nat) : (rowWords img fmt y).length = img.width.toNat := by
  rw [rowWords, List.length_map, List.length_range]

/-- The pixels of a row are pushed into the unit that the mode selects (R191). -/
theorem rowCommands_units (img : Image) (fmt : Fmt) (rle : Bool) (y : Nat) :
    (rowCommands img y).flatMap (unitCommands fmt rle) =
      (rowWords img fmt y).map (if rle then Instr.rlePush else Instr.rowPush) ++ if rle then [] else [.rowEnd] := by
  have hpixels : ((List.range img.width.toNat).map fun x => Instr.pix (img.pixel x y)).flatMap (unitCommands fmt rle) =
      (rowWords img fmt y).map (if rle then Instr.rlePush else Instr.rowPush) := by
    rw [List.flatMap_map, rowWords, List.map_map, List.map_eq_flatMap]
    cases rle <;> rfl
  rw [rowCommands, List.flatMap_append, hpixels, List.flatMap_singleton, unitCommands_eor]

/-- With RLE an image is one stream of the encoder (R131). -/
theorem bodyCommands_units_rle (img : Image) (fmt : Fmt) :
    (bodyCommands img true).flatMap (unitCommands fmt true) =
      ((List.range img.height.toNat).flatMap (rowWords img fmt)).map Instr.rlePush ++ [.rleFlush] := by
  have hrow : (fun y => (rowCommands img y).flatMap (unitCommands fmt true)) =
      fun y => (rowWords img fmt y).map Instr.rlePush := by
    funext y
    rw [rowCommands_units, if_pos rfl, if_pos rfl, List.append_nil]
  rw [bodyCommands, imageCommands, if_pos rfl, List.append_nil, List.flatMap_append, List.flatMap_assoc, hrow,
    List.map_flatMap, List.flatMap_singleton, unitCommands_eoi, if_pos rfl]

/-- Without RLE an image is rows of the row unit, the final one twice (R178, R219). -/
theorem bodyCommands_units_raw (img : Image) (fmt : Fmt) {n : Nat} (hn : img.height.toNat = n + 1) :
    (bodyCommands img false).flatMap (unitCommands fmt false) =
      ((List.range n).map (rowWords img fmt) ++ [rowWords img fmt n, rowWords img fmt n]).flatMap fun r =>
        r.map Instr.rowPush ++ [.rowEnd] := by
  have hrow : (fun y => (rowCommands img y).flatMap (unitCommands fmt false)) =
      fun y => (rowWords img fmt y).map Instr.rowPush ++ [.rowEnd] := by
    funext y
    rw [rowCommands_units, if_neg Bool.false_ne_true, if_neg Bool.false_ne_true]
  have hlast := congrFun hrow n
  rw [bodyCommands, imageCommands, if_neg Bool.false_ne_true, hn, List.range_succ]
  simp only [List.flatMap_append, List.flatMap_assoc, hrow, hlast, List.flatMap_singleton, unitCommands_eoi, Nat.add_sub_cancel]
  simp [List.flatMap_map]

theorem flatMap_rowWords_length (img : Image) (fmt : Fmt) (n : Nat) :
    ((List.range n).flatMap (rowWords img fmt)).length = n * img.width.toNat := by
  simp [List.length_flatMap, rowWords_length]

theorem isFrontEnd_bodyCommands (img : Image) (rle : Bool) : ∀ i ∈ bodyCommands img rle, isFrontEnd i = true := by
  intro i hi
  obtain hi | hi := List.mem_append.mp hi
  · obtain ⟨rgba, rfl⟩ | rfl := mem_imageCommands hi <;> rfl
  · obtain rfl := List.mem_singleton.mp hi
    rfl

/-! ## The body of an encode completes -/

section
variable {fmt : Fmt} {rle : Bool} {cap : Nat}

/-- After the prologue the cursor is at the payload's start, both units are empty, and ROW_BASE is the payload's offset. -/
theorem encoding_started (hlen : headerLength ≤ cap) (hcap : cap < 2 ^ 32) :
    Encoding (BitVec.ofNat 32 cap) fmt rle (started cap fmt rle) where
  cursor :=
    { pos_le_extent := le_rfl
      extent_le_cap := by
        show headerLength ≤ (BitVec.ofNat 32 cap).toNat
        rwa [BitVec.toNat_ofNat, Nat.mod_eq_of_lt hcap]
      buf_canonical := rfl
      buf_inside := nofun
      unallocated := nofun }
  front := fun _ => ⟨rfl, rfl, rfl, rfl⟩
  configured := rfl
  allocated := rfl
  running := rfl
  cap_eq := rfl
  fmt_eq := rfl
  rle_eq := rfl

end

theorem started_bpp (cap : Nat) (fmt : Fmt) (rle : Bool) :
    bppOf (started cap fmt rle).rleBpm1 = fmt.bpp ∧ bppOf (started cap fmt rle).rowBpm1 = fmt.bpp :=
  ⟨bppOf_bpm1Of fmt, bppOf_bpm1Of fmt⟩

/-- The rows and the final row again keep within the analytic bound (R178, R215). -/
theorem rows_le_nonRleBound (w n bpp : Nat) : (n + 2) * rowBytes w bpp ≤ nonRleBound w (n + 1) bpp :=
  calc (n + 2) * rowBytes w bpp
      ≤ (n + 2) * ((w + 1) * bpp + 3) := Nat.mul_le_mul_left _ (rowBytes_le w bpp)
    _ = nonRleBound w (n + 1) bpp := by unfold nonRleBound; ring

section
variable {img : Image} {fmt : Fmt} {cap : Nat} (hlt : cap < 2 ^ 32)
include hlt

theorem started_cap_toNat (rle : Bool) : (started cap fmt rle).cap.toNat = cap := by
  rw [started, BitVec.toNat_ofNat, Nat.mod_eq_of_lt hlt]

/-- The stream of an image's pixels fits the RLE bound (R132, R214). -/
theorem units_complete_rle (hcap : capacity img.width.toNat img.height.toNat fmt.bpp true = cap) :
    ∃ t, execAll ((bodyCommands img true).flatMap (unitCommands fmt true)) (started cap fmt true) = some t := by
  have hstart := encoding_started (fmt := fmt) (rle := true) (hcap ▸ headerLength_le_capacity _ _ _ _) hlt
  have hroom : (started cap fmt true).pos.toNat + ((List.range img.height.toNat).flatMap (rowWords img fmt)).length *
      (bppOf (started cap fmt true).rleBpm1 + 1) ≤ (started cap fmt true).cap.toNat := by
    rw [flatMap_rowWords_length, (started_bpp cap fmt true).1, started_cap_toNat hlt, ← hcap, capacity, if_pos rfl, rleBound,
      Nat.mul_comm img.height.toNat, Nat.add_comm]
    exact le_rfl
  obtain ⟨t, ht, -⟩ := rleWorstCase _ _ ⟨rfl, rfl, rfl, rfl, rfl⟩ hstart.cursor rfl rfl rfl hroom
  rw [bodyCommands_units_rle]
  exact ⟨t, ht⟩

/-- The rows of an image fit the non-RLE bound (R178, R215). -/
theorem units_complete_raw (hvalid : img.valid = true) (hcap : capacity img.width.toNat img.height.toNat fmt.bpp false = cap) :
    ∃ t, execAll ((bodyCommands img false).flatMap (unitCommands fmt false)) (started cap fmt false) = some t := by
  simp only [Image.valid, Bool.and_eq_true, decide_eq_true_eq] at hvalid
  obtain ⟨⟨hw, hh⟩, -⟩ := hvalid
  obtain ⟨n, hn⟩ := Nat.exists_eq_add_of_le' hh
  have hstart := encoding_started (fmt := fmt) (rle := false) (hcap ▸ headerLength_le_capacity _ _ _ _) hlt
  have hroom : (started cap fmt false).pos.toNat + (((List.range n).map (rowWords img fmt)).length + 2) *
      rowBytes img.width.toNat (bppOf (started cap fmt false).rowBpm1) ≤ (started cap fmt false).cap.toNat := by
    rw [List.length_map, List.length_range, (started_bpp cap fmt false).2, started_cap_toNat hlt, ← hcap, capacity,
      if_neg Bool.false_ne_true, hn, Nat.add_comm]
    exact Nat.add_le_add_right (rows_le_nonRleBound _ _ _) _
  have hwidth : ∀ r ∈ (List.range n).map (rowWords img fmt) ++ [rowWords img fmt n], r.length = img.width.toNat := by
    intro r hr
    obtain hr | hr := List.mem_append.mp hr
    · obtain ⟨y, -, rfl⟩ := List.mem_map.mp hr
      exact rowWords_length img fmt y
    · rw [List.mem_singleton.mp hr, rowWords_length]
  obtain ⟨⟨t, ht, -⟩, -⟩ := uncompressedPayloadLength _ _ _ _ hstart.cursor rfl rfl rfl rfl hw hwidth hroom
  rw [bodyCommands_units_raw img fmt hn]
  exact ⟨t, ht⟩

theorem body_completes (rle : Bool) (hvalid : img.valid = true)
    (hcap : capacity img.width.toNat img.height.toNat fmt.bpp rle = cap) :
    ∃ t, execAll (bodyCommands img rle) (started cap fmt rle) = some t ∧ Encoding (BitVec.ofNat 32 cap) fmt rle t := by
  have hunits : ∃ t, execAll ((bodyCommands img rle).flatMap (unitCommands fmt rle)) (started cap fmt rle) = some t := by
    cases rle with
    | true => exact units_complete_rle hlt hcap
    | false => exact units_complete_raw hlt hvalid hcap
  obtain ⟨t, ht⟩ := hunits
  have hstart := encoding_started (fmt := fmt) (rle := rle) (hcap ▸ headerLength_le_capacity _ _ _ _) hlt
  exact hstart.execAll (.refl _) (isFrontEnd_bodyCommands img rle) ht

end

/-! ## The header and the output (R220 to R225) -/

/-- The host reads exactly the bytes of a slice (R53, R81). -/
theorem sliceBytes_wordsOf {bs : List Byte} {l : Word} (hl : l.toNat = bs.length) : sliceBytes (l :: wordsOf bs) = bs := by
  rw [sliceBytes, hl, writeData_wordsOf]

section
variable {cap : Nat} {fmt : Fmt} {rle : Bool} {s s' : State}

/-- The header is written over the first 40 bytes (R224). -/
theorem header_completes (hs : Encoding (BitVec.ofNat 32 cap) fmt rle s) (hlen : headerLength ≤ cap) (hlt : cap < 2 ^ 32)
    (img : Image) (t : Word) :
    ∃ u, execAll (headerCommands img fmt rle t) s = some u ∧ Encoding (BitVec.ofNat 32 cap) fmt rle u := by
  have hseek := (curSeekMovesPos 0 s hs.allocated).1 (Nat.zero_le _)
  have hu := hs.exec rfl hseek hs.running
  have hfits : (0 : Word).toNat + (40 : Word).toNat ≤ s.cap.toNat := by
    rw [hs.cap_eq, BitVec.toNat_ofNat, Nat.mod_eq_of_lt hlt]
    exact hlen
  have hwrite := exec_curWrite_fits (wellFormed_header img fmt rle t) hu.allocated hfits
  rw [headerCommands, curWriteW32_eq]
  exact ⟨_, execAll_cons.mpr ⟨_, hseek, hs.running, execAll_cons.mpr ⟨_, hwrite, hs.running, rfl⟩⟩,
    hu.exec rfl hwrite hs.running⟩

/-- The output is all of BUF up to EXTENT (R225). -/
theorem closing_completes (hs : Encoding (BitVec.ofNat 32 cap) fmt rle s) (hlen : headerLength ≤ cap) (hlt : cap < 2 ^ 32)
    (htwin : s.Twin s') (hs' : Ready s') (img : Image) :
    ∃ out t, closing img fmt rle s' = .ok (out, t) ∧ out.length ≤ cap := by
  have htell := exec_curTell_allocated hs.allocated
  obtain ⟨a, hissueTell, hatwin, ha⟩ := issue_of_exec (i := .curTell) ⟨rfl, nofun⟩ hs.cursor htwin hs' htell hs.running
  have htold := hs.exec rfl htell hs.running
  obtain ⟨u, hheader, hu⟩ := header_completes htold hlen hlt img s.pos
  obtain ⟨b, hissueHeader, hbtwin, hb⟩ :=
    issueAll_of_execAll (sendable_headerCommands img fmt rle s.pos) htold.cursor hatwin ha hheader
  have hslice := exec_curSlice_inside hu.allocated none none hu.cursor (Nat.zero_le _) (le_refl u.extent.toNat)
  obtain ⟨c, hissueSlice, -, -⟩ :=
    issue_of_exec (i := .curSlice none none) ⟨rfl, nofun⟩ hu.cursor hbtwin hb hslice hu.running
  refine ⟨u.bytesAt 0 u.extent.toNat, c, ?runs, ?length⟩
  case runs =>
    have hbytes : sliceBytes (resultWords (.curSlice none none) u u) = u.bytesAt 0 u.extent.toNat :=
      sliceBytes_wordsOf (by simp)
    rw [closing, hissueTell]
    change (issueAll (headerCommands img fmt rle s.pos) a).bind _ = _
    rw [hissueHeader]
    change (issue (.curSlice none none) b).bind _ = _
    rw [hissueSlice]
    exact congrArg (fun out => Except.ok (out, c)) hbytes
  case length =>
    have hcap := hu.cursor.extent_le_cap
    rw [hu.cap_eq, BitVec.toNat_ofNat, Nat.mod_eq_of_lt hlt] at hcap
    rwa [State.bytesAt_length]

end

/-- An encode that passes the host's checks completes, within its capacity (R216, R247). -/
theorem drive_completes {img : Image} {fmt : Fmt} {rle : Bool} {s : State} (hs : Ready s) (hvalid : img.valid = true)
    (hcap : capacity img.width.toNat img.height.toNat fmt.bpp rle ≤ Config.capMax) :
    ∃ out t, drive img fmt rle s = .ok (out, t) ∧ out.length ≤ capacity img.width.toNat img.height.toNat fmt.bpp rle := by
  have hlt := hcap.trans_lt capMax_lt
  have hlen := headerLength_le_capacity img.width.toNat img.height.toNat fmt.bpp rle
  obtain ⟨c, hprologue⟩ := issueAll_prologue hs hcap hlen fmt rle
  obtain ⟨a, hbody, ha⟩ := body_completes hlt rle hvalid rfl
  obtain ⟨b, hissue, htwin, hb⟩ := issueAll_of_execAll (sendable_bodyCommands img rle) (encoding_started hlen hlt).cursor
    (.intro c nofun) ⟨rfl, rfl⟩ hbody
  obtain ⟨out, t, hclosing, hout⟩ := closing_completes ha hlen hlt htwin hb img
  refine ⟨out, t, ?_, hout⟩
  rw [drive_eq, hprologue]
  change (issueAll (bodyCommands img rle) _).bind _ = _
  rw [hissue]
  exact hclosing

/-- How an encode ends: with an error of the host's checks, or with an output within its capacity (R212, R213, R247). -/
theorem hostEncode_ends (img : Image) (rle : Bool) (f : OutputFormat) (s : State) :
    (∃ e, e ≠ .blockFault ∧ hostEncode img rle f s = .error e) ∨
      ∃ fmt out t, resolveFormat f rle = some fmt ∧ hostEncode img rle f s = .ok (out, t) ∧
        out.length ≤ capacity img.width.toNat img.height.toNat fmt.bpp rle := by
  cases hfmt : resolveFormat f rle with
  | none => exact .inl ⟨.unsupportedFormat, nofun, by rw [hostEncode, hfmt]⟩
  | some fmt =>
    rw [hostEncode, hfmt]
    dsimp only
    split
    · exact .inl ⟨.preconditionViolation, nofun, rfl⟩
    split
    · exact .inl ⟨.capacityExceeded, nofun, rfl⟩
    · rename_i hvalid hcap
      obtain ⟨out, t, hdrive, hout⟩ := drive_completes (ready_prepare s) (by simpa using hvalid) (Nat.not_lt.mp hcap)
      exact .inr ⟨fmt, out, t, rfl, hdrive, hout⟩

/-! ## Auto mode (R226 to R228) -/

section
variable {img : Image} {f : OutputFormat} {s t : State}

theorem hostEncodeAuto_error {e : EncodeError} (h : hostEncode img true f s = .error e) : hostEncodeAuto img f s = .error e := by
  rw [hostEncodeAuto, h]

theorem hostEncodeAuto_ok {out : List Byte} {fmt : Fmt} (h : hostEncode img true f s = .ok (out, t))
    (hfmt : resolveFormat f false = some fmt) :
    hostEncodeAuto img f s = if keepsRle out img fmt then .ok (out, t) else hostEncode img false f t.afterReset := by
  rw [hostEncodeAuto, h, hfmt]

end

/-- An output format that has a texture format with RLE has one without (R211, R212). -/
theorem exists_resolveFormat {f : OutputFormat} {fmt : Fmt} (h : resolveFormat f true = some fmt) :
    ∃ fmt, resolveFormat f false = some fmt := by
  cases f with
  | rgba4444 => cases h
  | _ => exact ⟨_, rfl⟩

/-- The choice of auto mode is a comparison with the bound (R226). -/
theorem keepsRle_iff (out : List Byte) (img : Image) (fmt : Fmt) :
    keepsRle out img fmt = true ↔ out.length - 40 ≤ nonRleBound img.width.toNat img.height.toNat fmt.bpp :=
  decide_eq_true_iff

/-- Settles O60: neither encode meets a fault, the second one forgets the first, and its output keeps within its capacity. -/
theorem autoModeStaysWithinBound : Obligations.AutoModeStaysWithinBound := by
  unfold Obligations.AutoModeStaysWithinBound
  intro img f s
  obtain ⟨e, he, hrle⟩ | ⟨fmtRle, r, t, hfmtRle, hrle, -⟩ := hostEncode_ends img true f s
  · rw [hostEncodeAuto_error hrle]
    exact ⟨he, .inl (congrArg _ hrle)⟩
  obtain ⟨fmt, hfmt⟩ := exists_resolveFormat hfmtRle
  have hchoice := keepsRle_iff r img fmt
  rw [hostEncodeAuto_ok hrle hfmt]
  by_cases hkeep : keepsRle r img fmt = true
  · rw [if_pos hkeep]
    have hle := hchoice.mp hkeep
    exact ⟨fmt, r, t, hfmt, hrle, by omega, fun _ => rfl, fun hlt => absurd hlt (by omega)⟩
  rw [if_neg hkeep]
  have hforget := encodeForgetsThePast img false f s t.afterReset
  obtain ⟨e, he, hraw⟩ | ⟨fmt', out, u, hfmt', hraw, hout⟩ := hostEncode_ends img false f t.afterReset
  · rw [hraw] at hforget ⊢
    exact ⟨he, .inr hforget⟩
  · obtain rfl : fmt = fmt' := Option.some.inj (hfmt.symm.trans hfmt')
    rw [hraw] at hforget ⊢
    exact ⟨fmt, r, t, hfmt, hrle, hout, fun hle => absurd (hchoice.mpr hle) hkeep, fun _ => hforget⟩

end Sys2Proof.Driver
end

/-! # Proofs of the statements of spec/60_exceptions.md -/

section
/-! PROOF. Faults and quiet steps: what an idle or faulted block does with each event (R245, R246, R250), how precise a fault is
(R244), and the fault of a section that does not fit (R242). -/

namespace Sys2Proof.Machine

/-! ## Steps that run no command (R245, R246, R250) -/

theorem step_idle {s : State} (hin : s.input = []) : step s = .next s := by
  rw [step, handleEvent, hin]

theorem step_deliver {s : State} {evs : List PortEvent} (hin : s.input = .deliver :: evs) :
    step s = .next { s with input := evs, rsp := s.rsp.drop 1 } := by
  rw [step, handleEvent, hin]

/-- Settles O9: the two events are arms of the port of their own. -/
theorem idleAndDelivery : Obligations.IdleAndDelivery := by
  unfold Obligations.IdleAndDelivery
  exact ⟨fun _ hin => step_idle hin, fun _ _ hin => step_deliver hin⟩

theorem step_drops_word {s : State} {w : Word} {evs : List PortEvent} (hf : s.fault = true)
    (hin : s.input = .commandWord w :: evs) : step s = .next { s with input := evs } := by
  rw [step_commandWord hin, acceptWord]
  exact if_pos hf

/-- Settles O13: the port looks at STATUS.FAULT before it decodes. -/
theorem faultStateDropsWords : Obligations.FaultStateDropsWords := by
  unfold Obligations.FaultStateDropsWords
  exact fun _ _ _ hf hin => step_drops_word hf hin

/-- A step of a faulted block that is not reset drops a word, or has a response word taken, or finds no event. -/
theorem step_faulted {s : State} (hf : s.fault = true) (hin : ∀ e ∈ s.input.take 1, e ≠ .resetInput) :
    ∃ k, step s = .next { s with input := s.input.drop 1, rsp := s.rsp.drop k } := by
  cases hevs : s.input with
  | nil => exact ⟨0, (step_idle hevs).trans (by rw [List.drop_nil, ← hevs]; rfl)⟩
  | cons e evs =>
    cases e with
    | commandWord w => exact ⟨0, step_drops_word hf hevs⟩
    | resetInput => exact absurd rfl (hin .resetInput (by simp [hevs]))
    | deliver => exact ⟨1, step_deliver hevs⟩

/-- One step more, at the start of a run. -/
theorem run_of_step {M : Host.Core} {s t : M.State} (h : M.step s = .next t) (k : Nat) : M.run (k + 1) s = M.run k t := by
  rw [Host.Core.run, h]

/-- Settles O14, by induction on the number of steps: the delivered words add up. -/
theorem faultLeftOnlyByReset : Obligations.FaultLeftOnlyByReset := by
  unfold Obligations.FaultLeftOnlyByReset
  intro n
  induction n with
  | zero => exact fun s _ _ => ⟨0, rfl⟩
  | succ n ih =>
    intro s hf hin
    rw [Nat.add_comm, List.take_add, List.forall_mem_append] at hin
    obtain ⟨hfirst, hlater⟩ := hin
    obtain ⟨j, hstep⟩ := step_faulted hf hfirst
    obtain ⟨k, hrun⟩ := ih { s with input := s.input.drop 1, rsp := s.rsp.drop j } hf hlater
    refine ⟨j + k, (run_of_step (M := Sys2Proof.core) hstep n).trans ?_⟩
    simpa only [List.drop_drop, Nat.add_comm 1 n] using hrun

/-! ## A fault is precise (R244) -/

/-- How a command with the command word `w` replies (R81): with an OK header and result words, or by taking a fault. -/
inductive Replies (w : Word) (s : State) : State → Prop
  | answers {t : State} {ws : List Word} (h : Answers w s t ws) : Replies w s t
  | faults (tr : Trap) : Replies w s (s.takeFault w tr)

theorem Replies.of_finish {w : Word} {s t : State} {r : Except Trap State} (h : finish w s r = .next t)
    (hr : KeepsRsp s r) : Replies w s t := by
  obtain ⟨u, hu, rfl⟩ | ⟨tr, -, rfl⟩ := finish_next h
  · exact .answers (ws := []) (by rw [Answers, State.respond_rsp, hr u hu, okHeader_eq])
  · exact .faults tr

theorem Replies.of_finishAdv {w : Word} {s t : State} {r : Except Trap State} (h : finishAdv w s r = .next t)
    (hr : KeepsRsp s r) : Replies w s t := by
  obtain ⟨u, hu, rfl⟩ | ⟨tr, -, rfl⟩ := finishAdv_next h
  · exact .answers (ws := [u.pos - s.pos]) (by rw [Answers, State.respond_rsp, hr u hu, okHeader_eq])
  · exact .faults tr

theorem Replies.of_respond {w : Word} {s t : State} {ws : List Word}
    (h : (.next (s.respond (okHeader w :: ws)) : Host.Outcome State Fault Refusal) = .next t) : Replies w s t :=
  .answers (answers_of_respond h)

theorem Replies.of_takeFault {w : Word} {tr : Trap} {s t : State}
    (h : (.next (s.takeFault w tr) : Host.Outcome State Fault Refusal) = .next t) : Replies w s t := by
  cases h
  exact .faults tr

theorem replies_curTell {s t : State} (h : execCurTell s = .next t) : Replies Instr.curTell.word s t := by
  unfold execCurTell at h
  split at h
  · exact .of_respond h
  · exact .of_takeFault h

theorem replies_curSlice {start stop : Option Word} {s t : State} (h : execCurSlice start stop s = .next t) :
    Replies (Instr.curSlice start stop).word s t := by
  unfold execCurSlice at h
  split at h
  · exact .of_takeFault h
  split at h
  · exact .of_takeFault h
  split at h
  · exact .of_takeFault h
  unfold answerSlice at h
  split at h
  · cases h
  · exact .of_respond h

/-- Every command replies under its own command word. -/
theorem exec_replies {i : Instr} {s t : State} (h : exec i s = .next t) : Replies i.word s t := by
  cases i with
  | nop | rleInit | rowInit | cfg => exact .answers (answers_of_finish_ok h rfl)
  | curAlloc => exact .of_finish h (keepsRsp_ok rfl).require
  | curSeek => exact .of_finish h (keepsRsp_ok rfl).require.requireBit
  | curTell => exact replies_curTell h
  | curWrite => exact .of_finish h (keepsRsp_append _ s).requireBit
  | curSlice => exact replies_curSlice h
  | packA8 | packBgr565 | packBgra8888 | packAbgr6666 | packAbgr8888 | rd => exact .of_respond h
  | rlePush => exact .of_finishAdv h (keepsRsp_rlePushBody _ _ s).requireBit
  | rleFlush => exact .of_finishAdv h (keepsRsp_rleFlushBody _ s).requireBit
  | rowPush => exact .of_finishAdv h (keepsRsp_rowPushBody _ _ s).requireBit
  | rowEnd => exact .of_finishAdv h (keepsRsp_rowEndBody _ s).requireBit
  | pix => exact .of_finishAdv h (keepsRsp_emitPixel _ _ s).requireBit.requireBit
  | eor => exact .of_finishAdv h (keepsRsp_ite (keepsRsp_ok rfl) (keepsRsp_rowEndBody _ s)).requireBit.requireBit
  | eoi => exact .of_finishAdv h (keepsRsp_ite (keepsRsp_rleFlushBody _ s) (keepsRsp_ok rfl)).requireBit.requireBit

/-- An OK response is no FAULT response: their KINDs differ (R81). -/
theorem not_answers_takeFault {v w : Word} {s : State} {tr : Trap} {ws : List Word} : ¬ Answers w s (s.takeFault v tr) ws := by
  intro h
  obtain ⟨hheader, -⟩ := List.cons.inj (List.append_cancel_left h)
  have hkind := Driver.kindField_faultHeader v
  rw [hheader, Driver.kindField_ok] at hkind
  exact absurd hkind (by decide)

/-- Settles O15: a command that ends in the fault state took the fault from the state before it, for a named cause, and the
response is under its own command word. -/
theorem faultEntryIsPrecise : Obligations.FaultEntryIsPrecise := by
  unfold Obligations.FaultEntryIsPrecise
  intro i s t hs h ht
  have hreply := exec_replies h
  cases exec_ends h with
  | completes ws he =>
    obtain ⟨hfault, -⟩ := he.ports_eq
    exact nomatch (hfault.trans hs).symm.trans ht
  | @faults w tr hcause =>
    generalize htake : s.takeFault w tr = t at hreply
    cases hreply with
    | answers hanswers => exact absurd (htake ▸ hanswers) not_answers_takeFault
    | faults tr' =>
      have htr : tr.cause = tr'.cause := congrArg State.cause htake
      exact ⟨tr'.cause, tr'.info, htr ▸ hcause, takeFault_eq_faultedBy s i.word tr'.cause tr'.info⟩

/-! ## A section that does not fit (R104, R242) -/

theorem finishAdv_emits_past {w : Word} {s : State} {sec : List Byte} (e : State)
    (hpast : s.cap.toNat < s.pos.toNat + sec.length) :
    finishAdv w s ((append sec s).map (·.withEncoder e)) =
      .next (s.faultedBy w .cursorBounds (boundsInfo (s.pos.toNat + sec.length))) := by
  rw [map_append, if_pos hpast, finishAdv_error, takeFault_eq_faultedBy, saturate_eq_boundsInfo]

/-- Settles O35: a push or flush is one append of its section. -/
theorem sectionThatDoesNotFitFaults : Obligations.SectionThatDoesNotFitFaults := by
  unfold Obligations.SectionThatDoesNotFitFaults
  intro p s hrle hs hcfg hca
  refine ⟨fun hpast => ?push, fun hpast => ?flush⟩
  case push =>
    obtain ⟨e, hstep⟩ := exists_pushStep s (pixelOf (bppOf s.rleBpm1) p)
    rw [exec_rlePush_eq hs hcfg hca hstep, finishAdv_emits_past e hpast, word_rlePush]
    rfl
  case flush =>
    rw [exec_rleFlush_eq hs hcfg hca hrle.three_states, finishAdv_emits_past _ hpast, word_rleFlush]
    rfl

end Sys2Proof.Machine
end

section
/-! PROOF. The payload of an encode, byte by byte: what a stream of the encoder or the rows of the row unit append to a buffer
that is blank ahead of POS (R131, R174), and that the front end's commands append the same (R195). -/

namespace Sys2Proof.Machine

/-! ## Appended bytes and EXTENT -/

/-- From `s` to `t` exactly the bytes `bs` were appended at POS, and EXTENT is its high-water mark (R27, R104). -/
structure State.Appends (s t : State) (bs : List Byte) : Prop where
  wrote : s.Wrote t bs
  advanced : s.Advanced t bs.length

namespace State.Appends
variable {s t u : State} {bs cs : List Byte}

theorem appended (h : s.Appends t bs) : s.Appended t bs := ⟨h.wrote, h.advanced.1⟩

theorem trans (hsu : s.Appends u bs) (hut : u.Appends t cs) : s.Appends t (bs ++ cs) where
  wrote := (hsu.appended.trans hut.appended).1
  advanced := by
    rw [List.length_append]
    exact hsu.advanced.trans hut.advanced

/-- The cursor and BUF are no part of the past. -/
theorem of_twins {s' t' : State} (h : s.Appends t bs) (hs : s'.Twin s) (ht : t.Twin t') : s'.Appends t' bs := by
  obtain ⟨c, -⟩ := hs
  obtain ⟨d, -⟩ := ht
  exact ⟨h.wrote, h.advanced⟩

end State.Appends

/-- A write at POS that fits and goes on to its own end appends its bytes (R104). -/
theorem State.CursorInv.appends_writeAt {s : State} (hs : s.CursorInv) {bs : List Byte}
    (hfits : s.pos.toNat + bs.length ≤ s.cap.toNat) : s.Appends (s.writeAt bs (s.pos.toNat + bs.length)) bs :=
  ⟨State.wrote_writeAt hs.buf_canonical bs _, hs.advanced_writeAt bs hfits⟩

theorem State.CursorInv.emitted_appends {s : State} (hs : s.CursorInv) (h : Word) {sec : List Byte} (e : State)
    (hfits : s.pos.toNat + sec.length ≤ s.cap.toNat) : s.Appends (s.emitted h sec e) sec := by
  obtain ⟨hwrote, hadvanced⟩ := hs.emitted_effect h e hfits
  exact ⟨hwrote, hadvanced⟩

/-- The sections of a stream are appended one after the other. -/
theorem Emits.appends {s t : State} {ps : List Word} {bs : List Byte} (h : Emits s ps t bs) : s.Appends t bs := by
  induction h with
  | flush hs hfits => exact hs.cursor.emitted_appends _ _ hfits
  | push hs _ hfits _ ih => exact (hs.cursor.emitted_appends _ _ hfits).trans ih

/-! ## Rows on a blank buffer (R174, R287) -/

/-- Every byte from POS on reads 0, as CUR_ALLOC left it (R101). -/
def State.BlankAhead (s : State) : Prop := ∀ a, s.pos.toNat ≤ a → Memory.read s.buf a = 0

theorem State.Appends.blankAhead {s t : State} {bs : List Byte} (h : s.Appends t bs) (hs : s.BlankAhead) : t.BlankAhead := by
  intro a ha
  have hpos := h.advanced.1
  rw [h.wrote a, if_neg (by omega)]
  exact hs a (by omega)

section
variable {cap base : Word} {b : BitVec 2} {s t : State}

/-- On a blank buffer the bytes that the row unit skips are zeros. -/
theorem RowWrites.appends_padded {bs : List Byte} {n : Nat} (h : RowWrites cap base b s t bs n) (hs : s.BlankAhead) :
    s.Appends t (bs ++ List.replicate (n - bs.length) 0) := by
  have hlen : (bs ++ List.replicate (n - bs.length) (0 : Byte)).length = n := by
    rw [List.length_append, List.length_replicate, Nat.add_sub_cancel' h.length_le]
  refine ⟨fun a => ?_, hlen.symm ▸ h.advanced⟩
  rw [h.wrote a, hlen]
  have hle := h.length_le
  by_cases hbelow : a < s.pos.toNat + bs.length
  · refine if_ctx_congr (by omega) (fun _ => ?_) fun _ => rfl
    rw [List.getD_append _ _ _ _ (by omega)]
  · rw [if_neg (by omega)]
    split
    · rw [List.getD_append_right _ _ _ _ (by omega), hs a (by omega), List.getD_replicate _ (by omega)]
    · rfl

/-- R174's row is its pixels, the last one again, and zeros up to `rowBytes`. -/
theorem paddedRow_snoc (b : BitVec 2) (ps : List Word) (last : Word) :
    paddedRow (bppOf b) ((ps ++ [last]).map (pixelOf (bppOf b))) =
      (ps ++ [last, last]).flatMap (pixelOf (bppOf b)) ++
        List.replicate
          (Driver.rowBytes (ps.length + 1) (bppOf b) - ((ps ++ [last, last]).flatMap (pixelOf (bppOf b))).length) 0 := by
  rw [flatMap_pixelOf_length]
  simp [paddedRow, List.flatMap_def]

/-- Rows of `w` pixels on a blank buffer are appended one after the other, each padded to `rowBytes` (R178). -/
theorem RowUnit.exists_payload {w : Nat} (hw : 1 ≤ w) : ∀ {rows : List (List Word)} {s : State}, RowUnit cap base b s →
    s.BlankAhead → ((s.pos.toNat : Int) - (base.toNat : Int)) % 4 = 0 → (∀ r ∈ rows, r.length = w) →
    s.pos.toNat + rows.length * Driver.rowBytes w (bppOf b) ≤ cap.toNat →
    ∃ t, execAll (rows.flatMap fun r => r.map Instr.rowPush ++ [.rowEnd]) s = some t ∧
      s.Appends t (rows.flatMap fun r => paddedRow (bppOf b) (r.map (pixelOf (bppOf b))))
  | [], s, hs, _, _, _, _ => ⟨s, rfl, hs.writes_nil.wrote, hs.writes_nil.advanced⟩
  | r :: rows, s, hs, hblank, haligned, hwidth, hroom => by
    obtain ⟨hr, hrows⟩ := List.forall_mem_cons.mp hwidth
    obtain rfl | ⟨ps, last, rfl⟩ := List.eq_nil_or_concat' r
    case inl => exact absurd hr (Nat.ne_of_lt hw)
    case inr =>
      rw [List.length_append, List.length_singleton] at hr
      rw [List.length_cons, Nat.succ_mul] at hroom
      obtain ⟨u, hexec, hrow⟩ := hs.exists_row ps last haligned (by rw [hr]; omega)
      have happends := hrow.appends_padded hblank
      rw [← paddedRow_snoc] at happends
      rw [hr] at hrow
      have hupos := hrow.advanced.1
      obtain ⟨t, hrest, hpayload⟩ := RowUnit.exists_payload hw hrow.unit (happends.blankAhead hblank)
        (rowBytes_aligned haligned hupos) hrows (by omega)
      exact ⟨t, execAll_append.mpr ⟨u, hexec, hrest⟩, happends.trans hpayload⟩

end

/-! ## The front end appends what the units append (R195) -/

/-- Front-end commands leave a twin of what their unit commands leave. -/
theorem Encoding.execAll_twin {cap : Word} {f : Fmt} {rle : Bool} : ∀ {is : List Instr} {s s' t t' : State},
    Encoding cap f rle s' → s.Twin s' → (∀ i ∈ is, isFrontEnd i = true) →
    Machine.execAll (is.flatMap (unitCommands f rle)) s = some t → Machine.execAll is s' = some t' → t.Twin t'
  | [], s, s', t, t', _, htwin, _, ht, ht' => Option.some.inj ht ▸ Option.some.inj ht' ▸ htwin
  | i :: is, s, s', t, t', hs, htwin, his, ht, ht' => by
    obtain ⟨hi, his⟩ := List.forall_mem_cons.mp his
    obtain ⟨u, hunit, hrest⟩ := execAll_append.mp ht
    obtain ⟨w, hexec, hw, hrest'⟩ := execAll_cons.mp ht'
    obtain ⟨v, hunit', huv⟩ := htwin.execAll (unitCommands_ne_rd f rle hi) hunit
    obtain ⟨w', hexec', -, hvw⟩ := hs.exists_exec hi hunit'
    obtain rfl : w' = w := Host.Outcome.next.inj (hexec'.symm.trans hexec)
    exact Encoding.execAll_twin (hs.exec (isFrontEnd_keeps_setup hi) hexec hw) (huv.trans hvw) his hrest hrest'

end Sys2Proof.Machine
end

section
/-! PROOF. What the host reads at the end of an encode (R221 to R225): the header of T, which overwrites the first 40 bytes, and
then the payload; and so R247. -/

namespace Sys2Proof.Driver

open Sys2Proof.Machine

/-! ## The payload of an image (R174, R218, R219, R232) -/

/-- The payloads that R247 admits: without RLE R174's rows, with RLE sections that expand to the packed pixels within the bound
of R214. -/
inductive Payload (img : Image) (fmt : Fmt) : Bool → List Byte → Prop
  | raw (hlen : (rawPayload img fmt).length = (img.height.toNat + 1) * rowBytes img.width.toNat fmt.bpp) :
      Payload img fmt false (rawPayload img fmt)
  | rle {bs : List Byte} (hbound : bs.length ≤ rleBound img.width.toNat img.height.toNat fmt.bpp)
      (hexpands : expandSections fmt.bpp bs.length bs =
        some ((List.range img.height.toNat).flatMap fun y =>
          (List.range img.width.toNat).map fun x => pack fmt (img.pixel x y))) : Payload img fmt true bs

/-- The packed pixels of a row, from its words (R75, R191). -/
theorem rowWords_pixels (img : Image) (fmt : Fmt) (y : Nat) :
    (rowWords img fmt y).map (pixelOf fmt.bpp) = (List.range img.width.toNat).map fun x => pack fmt (img.pixel x y) := by
  rw [rowWords, List.map_map, ← bppOf_bpm1Of]
  exact List.map_congr_left fun x _ => pixelOf_pack (bppOf_bpm1Of fmt) (img.pixel x y)

/-- The rows of an image from the first, and the final one again (R218, R219). -/
def rowsWords (img : Image) (fmt : Fmt) : List (List Word) :=
  (List.range img.height.toNat ++ [img.height.toNat - 1]).map (rowWords img fmt)

theorem rowsWords_succ (img : Image) (fmt : Fmt) {n : Nat} (hn : img.height.toNat = n + 1) :
    rowsWords img fmt = (List.range n).map (rowWords img fmt) ++ [rowWords img fmt n, rowWords img fmt n] := by
  rw [rowsWords, hn, Nat.add_sub_cancel, List.range_succ]
  simp

/-- The uncompressed payload, from the words that the row unit takes. -/
theorem flatMap_paddedRow_rowsWords (img : Image) (fmt : Fmt) :
    ((rowsWords img fmt).flatMap fun r => paddedRow fmt.bpp (r.map (pixelOf fmt.bpp))) = rawPayload img fmt := by
  rw [rowsWords, List.flatMap_map, rawPayload]
  simp only [rowWords_pixels]

/-- A row that has a pixel fills `rowBytes` bytes (R174). -/
theorem paddedRow_length {bpp : Nat} {row : List Pixel} (hwidth : ∀ p ∈ row, p.length = bpp) (hne : row ≠ []) :
    (paddedRow bpp row).length = rowBytes row.length bpp := by
  have hlast : (row.getLast?.getD []).length = bpp := by
    rw [List.getLast?_eq_getLast_of_ne_nil hne]
    exact hwidth _ (List.getLast_mem hne)
  have hpad : (row.length + 1) * bpp ≤ rowBytes row.length bpp := by
    unfold rowBytes roundup4
    omega
  rw [paddedRow, List.length_append, List.length_append, List.length_replicate, flatten_length_of_width hwidth, hlast,
    ← Nat.succ_mul, Nat.add_sub_cancel' hpad]

theorem rawPayload_length {img : Image} (hw : 0 < img.width.toNat) (fmt : Fmt) :
    (rawPayload img fmt).length = (img.height.toNat + 1) * rowBytes img.width.toNat fmt.bpp := by
  have hrow (y : Nat) : (paddedRow fmt.bpp ((List.range img.width.toNat).map fun x => pack fmt (img.pixel x y))).length =
      rowBytes img.width.toNat fmt.bpp := by
    rw [paddedRow_length (List.forall_mem_map.mpr fun x _ => pack_length fmt (img.pixel x y)) (by simp [hw.ne']),
      List.length_map, List.length_range]
  simp [rawPayload, List.length_flatMap, hrow, Nat.succ_mul]

section
variable {img : Image} {fmt : Fmt} {cap : Nat} (hlt : cap < 2 ^ 32)
include hlt

/-- The stream of an image appends the RLE payload (R131, R132). -/
theorem units_append_rle (hcap : capacity img.width.toNat img.height.toNat fmt.bpp true = cap) :
    ∃ t bs, execAll ((bodyCommands img true).flatMap (unitCommands fmt true)) (started cap fmt true) = some t ∧
      (started cap fmt true).Appends t bs ∧ Payload img fmt true bs := by
  obtain ⟨t, ht⟩ := units_complete_rle hlt hcap
  have hstart := encoding_started (fmt := fmt) (rle := true) (hcap ▸ headerLength_le_capacity _ _ _ _) hlt
  have hidle : (started cap fmt true).isIdle := ⟨rfl, rfl, rfl, rfl, rfl⟩
  have hbpp := (started_bpp cap fmt true).1
  obtain ⟨bs, hemits⟩ := hidle.exists_emits hstart.cursor rfl (bodyCommands_units_rle img fmt ▸ ht)
  refine ⟨t, bs, ht, hemits.appends, .rle ?bound ?expands⟩
  case bound =>
    have hle := hemits.length_le.1
    rwa [hidle.heldPixels_eq, List.length_nil, Nat.zero_add, flatMap_rowWords_length, hbpp,
      Nat.mul_comm img.height.toNat] at hle
  case expands =>
    have hreads := hemits.readsAs bs.length le_rfl
    rw [hidle.heldPixels_eq, List.nil_append, List.map_flatMap] at hreads
    simpa only [hbpp, rowWords_pixels] using hreads

/-- The rows of an image append the uncompressed payload (R174, R178). -/
theorem units_append_raw (hvalid : img.valid = true) (hcap : capacity img.width.toNat img.height.toNat fmt.bpp false = cap) :
    ∃ t bs, execAll ((bodyCommands img false).flatMap (unitCommands fmt false)) (started cap fmt false) = some t ∧
      (started cap fmt false).Appends t bs ∧ Payload img fmt false bs := by
  simp only [Image.valid, Bool.and_eq_true, decide_eq_true_eq] at hvalid
  obtain ⟨⟨hw, hh⟩, -⟩ := hvalid
  obtain ⟨n, hn⟩ := Nat.exists_eq_add_of_le' hh
  have hstart := encoding_started (fmt := fmt) (rle := false) (hcap ▸ headerLength_le_capacity _ _ _ _) hlt
  have hbpp : bppOf (started cap fmt false).rowBpm1 = fmt.bpp := (started_bpp cap fmt false).2
  have hrows : (rowsWords img fmt).length = img.height.toNat + 1 := by simp [rowsWords]
  have hwidth : ∀ r ∈ rowsWords img fmt, r.length = img.width.toNat :=
    List.forall_mem_map.mpr fun y _ => rowWords_length img fmt y
  have hroom : (started cap fmt false).pos.toNat + (rowsWords img fmt).length * rowBytes img.width.toNat fmt.bpp ≤
      (started cap fmt false).cap.toNat := by
    rw [hrows, started_cap_toNat hlt, ← hcap, capacity, if_neg Bool.false_ne_true, hn, Nat.add_comm]
    exact Nat.add_le_add_right (rows_le_nonRleBound _ _ _) _
  have hunit : RowUnit (started cap fmt false).cap (started cap fmt false).rowBase (started cap fmt false).rowBpm1
      (started cap fmt false) := ⟨hstart.cursor, rfl, rfl, rfl, rfl, rfl, rfl⟩
  obtain ⟨t, ht, happends⟩ := hunit.exists_payload hw (fun _ _ => rfl) rfl hwidth (hbpp.symm ▸ hroom)
  rw [hbpp, flatMap_paddedRow_rowsWords] at happends
  refine ⟨t, rawPayload img fmt, ?_, happends, .raw ?_⟩
  · rw [bodyCommands_units_raw img fmt hn, ← rowsWords_succ img fmt hn]
    exact ht
  · exact rawPayload_length hw fmt

/-- The body of an encode appends the payload (R191 to R193). -/
theorem body_appends {rle : Bool} {a : State} (hvalid : img.valid = true)
    (hcap : capacity img.width.toNat img.height.toNat fmt.bpp rle = cap)
    (hbody : execAll (bodyCommands img rle) (started cap fmt rle) = some a) :
    ∃ bs, (started cap fmt rle).Appends a bs ∧ Payload img fmt rle bs := by
  have hunits : ∃ t bs, execAll ((bodyCommands img rle).flatMap (unitCommands fmt rle)) (started cap fmt rle) = some t ∧
      (started cap fmt rle).Appends t bs ∧ Payload img fmt rle bs := by
    cases rle with
    | true => exact units_append_rle hlt hcap
    | false => exact units_append_raw hlt hvalid hcap
  obtain ⟨t, bs, ht, happends, hpayload⟩ := hunits
  have hstart := encoding_started (fmt := fmt) (rle := rle) (hcap ▸ headerLength_le_capacity _ _ _ _) hlt
  exact ⟨bs, happends.of_twins (.refl _) (hstart.execAll_twin (.refl _) (isFrontEnd_bodyCommands img rle) ht hbody), hpayload⟩

end

/-! ## The header and the output (R220 to R225) -/

/-- The 40 bytes of the header (R221). -/
def headerBytes (img : Image) (fmt : Fmt) (rle : Bool) (t : Word) : List Byte :=
  (headerWords img fmt rle t).flatMap leBytes

@[simp] theorem headerBytes_length (img : Image) (fmt : Fmt) (rle : Bool) (t : Word) :
    (headerBytes img fmt rle t).length = 40 := rfl

theorem writeData_headerWords (img : Image) (fmt : Fmt) (rle : Bool) (t : Word) :
    writeData 40 (headerWords img fmt rle t) = headerBytes img fmt rle t := rfl

section
variable {cap : Nat} {fmt : Fmt} {rle : Bool} {s s' u : State}

/-- The header is written from offset 0 on (R224). -/
theorem header_appends (hs : Encoding (BitVec.ofNat 32 cap) fmt rle s) (hlen : headerLength ≤ cap) (hlt : cap < 2 ^ 32)
    {img : Image} {t : Word} (h : execAll (headerCommands img fmt rle t) s = some u) :
    ({ s with pos := 0 } : State).Appends u (headerBytes img fmt rle t) := by
  have hextent : (if s.extent.toNat ≤ (0 : Word).toNat then 0 else s.extent) = s.extent :=
    ite_eq_right_iff.mpr fun hzero => (BitVec.eq_of_toNat_eq (Nat.le_zero.mp hzero)).symm
  have hseek : exec (.curSeek 0) s = .next (({ s with pos := 0 } : State).respond [0x02000000]) := by
    rw [(curSeekMovesPos 0 s hs.allocated).1 (Nat.zero_le _), hextent]
    rfl
  have hsought := hs.exec rfl hseek hs.running
  have hfits : (0 : Word).toNat + (headerBytes img fmt rle t).length ≤ s.cap.toNat := by
    rw [hs.cap_eq, BitVec.toNat_ofNat, Nat.mod_eq_of_lt hlt]
    exact hlen
  have hwrite := exec_curWrite_fits (wellFormed_header img fmt rle t) hsought.allocated hfits
  rw [writeData_headerWords] at hwrite
  rw [headerCommands, curWriteW32_eq] at h
  obtain ⟨v, hv, -, h⟩ := execAll_cons.mp h
  obtain rfl := Host.Outcome.next.inj (hseek.symm.trans hv)
  obtain ⟨w, hw, -, h⟩ := execAll_cons.mp h
  obtain rfl := Host.Outcome.next.inj (hwrite.symm.trans hw)
  obtain rfl := Option.some.inj h
  exact (hsought.cursor.appends_writeAt hfits).of_twins (State.twin_respond _ _) (State.twin_respond _ _)

/-- The bytes up to EXTENT, when a header is written over the first bytes of a buffer that goes on with a payload to its end. -/
theorem bytesAt_header_payload {z : State} {header payload : List Byte} (hpos : z.pos.toNat = header.length)
    (hextent : z.extent.toNat = header.length) (hpayload : z.Appends s payload)
    (hheader : ({ s with pos := 0 } : State).Appends u header) : u.bytesAt 0 u.extent.toNat = header ++ payload := by
  have hsextent := hpayload.advanced.2
  have huextent : u.extent.toNat = max s.extent.toNat (0 + header.length) := hheader.advanced.2
  have hlen : u.extent.toNat = header.length + payload.length := by omega
  refine List.ext_getElem (by rw [State.bytesAt_length, hlen, List.length_append]) fun k _ hk => ?_
  rw [List.length_append] at hk
  rw [← List.getD_eq_getElem _ 0, ← List.getD_eq_getElem _ 0, State.bytesAt_getD, if_pos (hlen ▸ hk), Nat.zero_add,
    hheader.wrote k]
  change (if 0 ≤ k ∧ k < 0 + header.length then header.getD (k - 0) 0 else Memory.read s.buf k) = _
  by_cases hfront : k < header.length
  · rw [if_pos (by omega), Nat.sub_zero, List.getD_append _ _ _ _ hfront]
  · rw [if_neg (by omega), hpayload.wrote k, if_pos (by omega), hpos, List.getD_append_right _ _ _ _ (by omega)]

/-- The host reads the header and then all that the body has left in BUF (R225). -/
theorem closing_output (hs : Encoding (BitVec.ofNat 32 cap) fmt rle s) (hlen : headerLength ≤ cap) (hlt : cap < 2 ^ 32)
    (htwin : s.Twin s') (hs' : Ready s') (img : Image) {z : State} {payload : List Byte} (hpos : z.pos.toNat = 40)
    (hextent : z.extent.toNat = 40) (hpayload : z.Appends s payload) :
    ∃ t, closing img fmt rle s' =
      .ok (headerBytes img fmt rle (BitVec.ofNat 32 (40 + payload.length)) ++ payload, t) ∧ t.fault = false := by
  have htell := exec_curTell_allocated hs.allocated
  obtain ⟨a, hissueTell, hatwin, ha⟩ := issue_of_exec (i := .curTell) ⟨rfl, nofun⟩ hs.cursor htwin hs' htell hs.running
  have htold := hs.exec rfl htell hs.running
  obtain ⟨u, hheader, hu⟩ := header_completes htold hlen hlt img s.pos
  obtain ⟨b, hissueHeader, hbtwin, hb⟩ :=
    issueAll_of_execAll (sendable_headerCommands img fmt rle s.pos) htold.cursor hatwin ha hheader
  have hslice := exec_curSlice_inside hu.allocated none none hu.cursor (Nat.zero_le _) (le_refl u.extent.toNat)
  obtain ⟨c, hissueSlice, -, hc⟩ :=
    issue_of_exec (i := .curSlice none none) ⟨rfl, nofun⟩ hu.cursor hbtwin hb hslice hu.running
  have htotal : BitVec.ofNat 32 (40 + payload.length) = s.pos := by
    rw [← hpos, ← hpayload.advanced.1, BitVec.ofNat_toNat, BitVec.setWidth_eq]
  have hbytes : sliceBytes (resultWords (.curSlice none none) u u) = headerBytes img fmt rle s.pos ++ payload :=
    (sliceBytes_wordsOf (by simp)).trans (bytesAt_header_payload (s := s.respond _) hpos hextent
      (hpayload.of_twins (.refl z) (s.twin_respond _)) (header_appends htold hlen hlt hheader))
  refine ⟨c, ?_, hc.running⟩
  rw [htotal, ← hbytes, closing, hissueTell]
  change (issueAll (headerCommands img fmt rle s.pos) a).bind _ = _
  rw [hissueHeader]
  change (issue (.curSlice none none) b).bind _ = _
  rw [hissueSlice]
  rfl

end

/-- An encode that passes the host's checks ends with the header and a payload, on a running block. -/
theorem drive_output {img : Image} {fmt : Fmt} {rle : Bool} {s : State} (hs : Ready s) (hvalid : img.valid = true)
    (hcap : capacity img.width.toNat img.height.toNat fmt.bpp rle ≤ Config.capMax) :
    ∃ payload t, drive img fmt rle s =
        .ok (headerBytes img fmt rle (BitVec.ofNat 32 (40 + payload.length)) ++ payload, t) ∧
      t.fault = false ∧ Payload img fmt rle payload := by
  have hlt := hcap.trans_lt capMax_lt
  have hlen := headerLength_le_capacity img.width.toNat img.height.toNat fmt.bpp rle
  obtain ⟨c, hprologue⟩ := issueAll_prologue hs hcap hlen fmt rle
  obtain ⟨a, hbody, ha⟩ := body_completes hlt rle hvalid rfl
  obtain ⟨payload, happends, hpayload⟩ := body_appends hlt hvalid rfl hbody
  obtain ⟨b, hissue, htwin, hb⟩ := issueAll_of_execAll (sendable_bodyCommands img rle) (encoding_started hlen hlt).cursor
    (.intro c nofun) ⟨rfl, rfl⟩ hbody
  obtain ⟨t, hclosing, ht⟩ := closing_output ha hlen hlt htwin hb img rfl rfl happends
  refine ⟨payload, t, ?_, ht, hpayload⟩
  rw [drive_eq, hprologue]
  change (issueAll (bodyCommands img rle) _).bind _ = _
  rw [hissue]
  exact hclosing

/-! ## R247 -/

/-- "`len(data) = width*height*4`" and no zero dimension (R213). -/
theorem Image.valid_iff (img : Image) : img.valid = true ↔
    img.width ≠ 0 ∧ img.height ≠ 0 ∧ img.data.length = img.width.toNat * img.height.toNat * 4 := by
  have hpos (x : Word) : 0 < x.toNat ↔ x ≠ 0 := Nat.pos_iff_ne_zero.trans (BitVec.toNat_inj (y := 0)).not
  simp only [Image.valid, Bool.and_eq_true, decide_eq_true_eq, beq_iff_eq, and_assoc, hpos]

/-- What R247 says of the output of an encode that completes. -/
theorem output_spec {img : Image} {fmt : Fmt} {rle : Bool} {out payload : List Byte} (hpayload : Payload img fmt rle payload)
    (hout : out = headerBytes img fmt rle (BitVec.ofNat 32 (40 + payload.length)) ++ payload) :
    out.take 40 = (headerWords img fmt rle (BitVec.ofNat 32 out.length)).flatMap leBytes ∧
      (rle = false →
        out.length = 40 + (img.height.toNat + 1) * rowBytes img.width.toNat fmt.bpp ∧ out.drop 40 = rawPayload img fmt) ∧
      (rle = true →
        40 ≤ out.length ∧ out.length ≤ 40 + rleBound img.width.toNat img.height.toNat fmt.bpp ∧
          expandSections fmt.bpp (out.length - 40) (out.drop 40) =
            some ((List.range img.height.toNat).flatMap fun y =>
              (List.range img.width.toNat).map fun x => pack fmt (img.pixel x y))) := by
  have hlen : out.length = 40 + payload.length := by rw [hout, List.length_append, headerBytes_length]
  have htake : out.take 40 = headerBytes img fmt rle (BitVec.ofNat 32 (40 + payload.length)) := by
    rw [hout]
    exact List.take_left' rfl
  have hdrop : out.drop 40 = payload := by
    rw [hout]
    exact List.drop_left' rfl
  rw [htake, hdrop, hlen, Nat.add_sub_cancel_left]
  refine ⟨rfl, ?raw, ?sections⟩
  case raw =>
    rintro rfl
    cases hpayload with
    | raw hrows => exact ⟨congrArg _ hrows, rfl⟩
  case sections =>
    rintro rfl
    cases hpayload with
    | rle hbound hexpands => exact ⟨Nat.le_add_right _ _, Nat.add_le_add_left hbound _, hexpands⟩

/-- Settles O58: an encode that passes the host's checks ends with the header and a payload. -/
theorem hostProtocolNeverFaults : Obligations.HostProtocolNeverFaults := by
  unfold Obligations.HostProtocolNeverFaults
  intro img rle f s
  cases hfmt : resolveFormat f rle with
  | none => rw [hostEncode, hfmt]
  | some fmt =>
    rw [hostEncode, hfmt]
    dsimp only
    by_cases hvalid : img.valid = true
    case neg =>
      rw [if_pos (by simpa using hvalid)]
      rwa [img.valid_iff, not_and_or, not_and_or, not_not, not_not] at hvalid
    rw [if_neg (by simpa using hvalid)]
    by_cases hcap : Config.capMax < capacity img.width.toNat img.height.toNat fmt.bpp rle
    case pos =>
      rw [if_pos hcap]
      exact ⟨fmt, rfl, hcap⟩
    rw [if_neg hcap]
    obtain ⟨payload, t, hdrive, ht, hpayload⟩ := drive_output (ready_prepare s) hvalid (Nat.not_lt.mp hcap)
    obtain ⟨hw, hh, hdata⟩ := img.valid_iff.mp hvalid
    rw [hdrive]
    exact ⟨ht, hw, hh, hdata, fmt, rfl, Nat.not_lt.mp hcap, output_spec hpayload rfl⟩

end Sys2Proof.Driver
end

/-! # Proofs of the statements of spec/70_reset_and_hazards.md -/

section
/-! PROOF. The reset input and start-up: what reset leaves in every state (R270), and what each command does in the fresh state
(R272). -/

namespace Sys2Proof.Machine

/-! ## The reset input (R270) -/

theorem step_resetInput {s : State} {evs : List PortEvent} (hin : s.input = .resetInput :: evs) :
    step s = .next { State.reset with input := evs } := by
  rw [step, handleEvent, hin]
  rfl

/-- What waits at the port shows in no register (R21). -/
theorem readReg_with_input (s : State) (evs : List PortEvent) (r : Reg) :
    State.readReg { s with input := evs } r = s.readReg r := by
  cases r <;> rfl

/-- Settles O10: the fresh state of R40, with the later events at its port. -/
theorem resetEventGivesFreshState : Obligations.ResetEventGivesFreshState := by
  unfold Obligations.ResetEventGivesFreshState
  intro s evs hin
  obtain ⟨hregs, hraw, hpart, hrsp, -⟩ := freshStateIsZero
  exact ⟨_, step_resetInput hin, hpart, hrsp, fun r => (readReg_with_input _ evs r).trans (hregs r), hraw, rfl,
    readByte_of_cap_zero rfl, rfl⟩

/-! ## Start-up (R272) -/

/-- Settles O12: a command either has no check but CUR_ALLOC's of its operand, or needs the buffer, which the fresh state does
not have. -/
theorem freshStateOutcomes : Obligations.FreshStateOutcomes := by
  unfold Obligations.FreshStateOutcomes
  intro i
  cases i with
  | nop => exact ⟨_, exec_nop _, rfl⟩
  | rd r => exact ⟨_, exec_rd r _, rfl⟩
  | packA8 rgba => exact ⟨_, exec_packInstr .a8 rgba _, rfl⟩
  | packBgr565 rgba => exact ⟨_, exec_packInstr .bgr565 rgba _, rfl⟩
  | packBgra8888 rgba => exact ⟨_, exec_packInstr .bgra8888 rgba _, rfl⟩
  | packAbgr6666 rgba => exact ⟨_, exec_packInstr .abgr6666 rgba _, rfl⟩
  | packAbgr8888 rgba => exact ⟨_, exec_packInstr .abgr8888 rgba _, rfl⟩
  | rleInit b => exact ⟨_, rleInitEmptiesEncoder b _, rfl⟩
  | rowInit b base => exact ⟨_, rowInitStartsRow b base _, rfl⟩
  | cfg f rle base => exact ⟨_, cfgConfiguresBothUnits f rle base _, rfl⟩
  | curAlloc x => exact fun hx => ⟨_, exec_curAlloc_fits hx _, rfl⟩
  | curSeek | curTell | curWrite | curSlice => exact unconfiguredCommandsFault _ State.reset rfl
  | rlePush | rleFlush | rowPush | rowEnd | pix | eor | eoi => exact unconfiguredCommandsFault _ State.reset (.inr rfl)

end Sys2Proof.Machine
end
